-- ==== Sys2Proof/Word.lean ====
section
/-! DEFINITION. The byte, the word, the flag register and the memory as plain data: the types that both the
configuration and the state are made of. -/
namespace Sys2Proof

/-- A register or memory byte, XLEN = 8 (00_scope.md R4, R9). -/
abbrev Byte := BitVec 8

/-- PC and every address, ALEN = 16 (00_scope.md R4, R9). -/
abbrev Word := BitVec 16

/-- The "eight independent booleans" of 10_state.md R26. Break and Unused are stored like the other six. -/
structure Flags where
  c : Bool   -- Carry
  z : Bool   -- Zero
  i : Bool   -- InterruptDisable
  d : Bool   -- Decimal
  b : Bool   -- Break
  u : Bool   -- Unused
  v : Bool   -- Overflow
  n : Bool   -- Negative
  deriving DecidableEq, Repr, Inhabited

/-- The 65536 bytes of 10_state.md R36 as a sparse list of (address, byte), addresses rising, no byte equal to
what an unlisted address reads as (`Memory.wf` of Machine/Ops.lean). -/
abbrev Memory := List Host.Cell

end Sys2Proof
end

