-- ==== Sys2Proof/Config.lean ====
section
/-! DEFINITION. What is fixed for one machine, and the free values: the parameters of 00_scope.md R4. `XLEN`, `ALEN`
and `MEMSIZE` are in the types. The spec's own value of `BASE_CYCLES` is in Machine/CycleTable.lean. -/
namespace Sys2Proof

namespace Config

/-- `STACK_BASE` (00_scope.md R4, 42_stack.md R140). -/
def stackBase : Word := 0x0100

/-- `BRK_VECTOR`, the address of the vector's low byte (00_scope.md R4, 45_control.md R190). -/
def brkVector : Word := 0xFFFE

end Config

/-- The parameters the host sets, held in State as plain data so that every statement is about every configuration
(DESIGN CHOICE, assumption 4). No instruction reads or writes them as data (10_state.md R20), and of the host's
transactions only the registration of a handler changes one (00_scope.md R7). -/
structure HostConfig where
  /-- `CALLOUT_BASE`, 0 to 0x10000; 0x10000 means that there is no callout range. -/
  calloutBase : Fin 65537
  /-- The addresses at which `HANDLER` has an entry ("keyed by the exact address", 60_exceptions.md R310). -/
  handlers : List Word
  /-- `ZP_POINTER_WRAP` (41_addressing.md R134), false in the spec. -/
  zpPointerWrap : Bool
  /-- `JMP_INDIRECT_PAGE_WRAP` (41_addressing.md R129), false in the spec. -/
  jmpIndirectPageWrap : Bool
  /-- The entries of `BASE_CYCLES`, laid out as in 70_reset_and_hazards.md R352: the row is the opcode's high nibble, the
  column its low nibble. The default is the spec's table (93_implementation_defined.md U11). `HostConfig.baseCost`, in
  Machine/Cycles.lean, is the map they stand for. Assumption 12. -/
  baseCycles : Vector (Vector Nat 16) 16
  deriving DecidableEq, Repr

/-- What a callout handler runs on: "(A, X, Y, SP, flags, M)" (60_exceptions.md R311). -/
structure HandlerView where
  a : Byte
  x : Byte
  y : Byte
  sp : Byte
  p : Flags
  mem : Memory
  deriving DecidableEq, Repr

/-- What a callout handler leaves: new values of the five registers it may write and the bytes it writes to memory,
in order (60_exceptions.md R312). It has no field for PC, `halted`, `fault` or a parameter, which R311 and R312 keep
from it. -/
structure HandlerEffect where
  a : Byte
  x : Byte
  y : Byte
  sp : Byte
  p : Flags
  writes : List (Word × Byte)
  deriving DecidableEq, Repr, Inhabited

namespace Config

/-- FREE VALUE (assumption 5). What the handler at an address does when it is the n-th handler to run, on the state
it sees: "a model treats HANDLER[t] as a relation supplied by the configuration (deterministic or not)"
(60_exceptions.md R312). -/
opaque handlerEffect (n : Nat) (target : Word) (view : HandlerView) : HandlerEffect

/-- FREE VALUE (assumption 7). `BCD_ADC_INVALID(A, operand, C) = (A', C')` of 47_group_cc1.md R230. -/
opaque bcdAdcInvalid (a m : Byte) (c : Bool) : Byte × Bool

/-- FREE VALUE (assumption 7). `BCD_SBC_INVALID(A, operand, C) = (A', C', V')` of 47_group_cc1.md R230. -/
opaque bcdSbcInvalid (a m : Byte) (c : Bool) : Byte × Bool × Bool

end Config
end Sys2Proof
end

