-- ==== Sys2Proof/Syntax.lean ====
section
/-! DEFINITION. The instructions: one constructor per row of spec/opcode_table.json, named by mnemonic and addressing
mode, with its operand bytes already assembled (30_encoding.md R84). Then the same instructions grouped by what they do
with their operand (`Form`), the view in which the rules of 43_implied.md to 48_group_cc2.md are written. -/
namespace Sys2Proof

/-- The 151 legal instructions (30_encoding.md R83). `v` is an immediate byte, `d : Byte` a zero-page byte, `w` a
16-bit operand, `d : Int` the signed displacement of a branch. -/
inductive Instr where
  -- 43_implied.md
  | php
  | plp
  | pha
  | pla
  | clc
  | sec
  | cli
  | sei
  | clv
  | cld
  | sed
  | dey
  | iny
  | inx
  | dex
  | tya
  | tay
  | txa
  | tax
  | txs
  | tsx
  | nop
  -- 44_branches.md
  | bpl (d : Int)
  | bmi (d : Int)
  | bvc (d : Int)
  | bvs (d : Int)
  | bcc (d : Int)
  | bcs (d : Int)
  | bne (d : Int)
  | beq (d : Int)
  -- 45_control.md
  | brk
  | jsr (w : Word)
  | rti
  | rts
  -- 46_group_cc0.md
  | bitZp (d : Byte)
  | bitAbs (w : Word)
  | jmpAbs (w : Word)
  | jmpInd (w : Word)
  | styZp (d : Byte)
  | styAbs (w : Word)
  | styZpx (d : Byte)
  | ldyImm (v : Byte)
  | ldyZp (d : Byte)
  | ldyAbs (w : Word)
  | ldyZpx (d : Byte)
  | ldyAbx (w : Word)
  | cpyImm (v : Byte)
  | cpyZp (d : Byte)
  | cpyAbs (w : Word)
  | cpxImm (v : Byte)
  | cpxZp (d : Byte)
  | cpxAbs (w : Word)
  -- 47_group_cc1.md
  | oraIzx (d : Byte)
  | oraZp (d : Byte)
  | oraImm (v : Byte)
  | oraAbs (w : Word)
  | oraIzy (d : Byte)
  | oraZpx (d : Byte)
  | oraAby (w : Word)
  | oraAbx (w : Word)
  | andIzx (d : Byte)
  | andZp (d : Byte)
  | andImm (v : Byte)
  | andAbs (w : Word)
  | andIzy (d : Byte)
  | andZpx (d : Byte)
  | andAby (w : Word)
  | andAbx (w : Word)
  | eorIzx (d : Byte)
  | eorZp (d : Byte)
  | eorImm (v : Byte)
  | eorAbs (w : Word)
  | eorIzy (d : Byte)
  | eorZpx (d : Byte)
  | eorAby (w : Word)
  | eorAbx (w : Word)
  | adcIzx (d : Byte)
  | adcZp (d : Byte)
  | adcImm (v : Byte)
  | adcAbs (w : Word)
  | adcIzy (d : Byte)
  | adcZpx (d : Byte)
  | adcAby (w : Word)
  | adcAbx (w : Word)
  | staIzx (d : Byte)
  | staZp (d : Byte)
  | staAbs (w : Word)
  | staIzy (d : Byte)
  | staZpx (d : Byte)
  | staAby (w : Word)
  | staAbx (w : Word)
  | ldaIzx (d : Byte)
  | ldaZp (d : Byte)
  | ldaImm (v : Byte)
  | ldaAbs (w : Word)
  | ldaIzy (d : Byte)
  | ldaZpx (d : Byte)
  | ldaAby (w : Word)
  | ldaAbx (w : Word)
  | cmpIzx (d : Byte)
  | cmpZp (d : Byte)
  | cmpImm (v : Byte)
  | cmpAbs (w : Word)
  | cmpIzy (d : Byte)
  | cmpZpx (d : Byte)
  | cmpAby (w : Word)
  | cmpAbx (w : Word)
  | sbcIzx (d : Byte)
  | sbcZp (d : Byte)
  | sbcImm (v : Byte)
  | sbcAbs (w : Word)
  | sbcIzy (d : Byte)
  | sbcZpx (d : Byte)
  | sbcAby (w : Word)
  | sbcAbx (w : Word)
  -- 48_group_cc2.md
  | aslZp (d : Byte)
  | aslAcc
  | aslAbs (w : Word)
  | aslZpx (d : Byte)
  | aslAbx (w : Word)
  | rolZp (d : Byte)
  | rolAcc
  | rolAbs (w : Word)
  | rolZpx (d : Byte)
  | rolAbx (w : Word)
  | lsrZp (d : Byte)
  | lsrAcc
  | lsrAbs (w : Word)
  | lsrZpx (d : Byte)
  | lsrAbx (w : Word)
  | rorZp (d : Byte)
  | rorAcc
  | rorAbs (w : Word)
  | rorZpx (d : Byte)
  | rorAbx (w : Word)
  | stxZp (d : Byte)
  | stxAbs (w : Word)
  | stxZpy (d : Byte)
  | ldxImm (v : Byte)
  | ldxZp (d : Byte)
  | ldxAbs (w : Word)
  | ldxZpy (d : Byte)
  | ldxAby (w : Word)
  | decZp (d : Byte)
  | decAbs (w : Word)
  | decZpx (d : Byte)
  | decAbx (w : Word)
  | incZp (d : Byte)
  | incAbs (w : Word)
  | incZpx (d : Byte)
  | incAbx (w : Word)
  deriving DecidableEq, Repr

/-- The memory modes that name a data byte (41_addressing.md R123 to R128, R130, R131). -/
inductive Addr where
  | zp (d : Byte)    -- Zero page
  | zpx (d : Byte)   -- Zero page,X
  | zpy (d : Byte)   -- Zero page,Y
  | abs (w : Word)   -- Absolute
  | abx (w : Word)   -- Absolute,X
  | aby (w : Word)   -- Absolute,Y
  | izx (d : Byte)   -- (Zero page,X)
  | izy (d : Byte)   -- (Zero page),Y
  deriving DecidableEq, Repr

/-- Where a reading instruction takes its operand: Immediate (41_addressing.md R122) or memory. -/
inductive Src where
  | imm (v : Byte)
  | mem (m : Addr)
  deriving DecidableEq, Repr

/-- The operand location of a shift or rotate: Accumulator (41_addressing.md R133) or memory. -/
inductive Place where
  | acc
  | mem (m : Addr)
  deriving DecidableEq, Repr

/-- How JMP finds its target: Absolute, or Indirect (41_addressing.md R126, R129). -/
inductive Jump where
  | abs (w : Word)
  | ind (w : Word)
  deriving DecidableEq, Repr

/-- The flag a branch selects with opcode bits 7..6 (30_encoding.md R76). -/
inductive BranchFlag where
  | negative | overflow | carry | zero
  deriving DecidableEq, Repr

/-- The 22 implied instructions (30_encoding.md R82). -/
inductive ImpliedOp where
  | php | plp | pha | pla | clc | sec | cli | sei | clv | cld | sed | dey | iny | inx | dex | tya | tay | txa | tax | txs | tsx | nop
  deriving DecidableEq, Repr

/-- The operations that read one operand byte and write registers or flags only. -/
inductive ReadOp where
  | ora | and | eor | adc | lda | cmp | sbc | bit | ldx | ldy | cpx | cpy
  deriving DecidableEq, Repr

/-- The operations that store a register. -/
inductive StoreOp where
  | sta | stx | sty
  deriving DecidableEq, Repr

/-- The shifts and rotates. -/
inductive ShiftOp where
  | asl | rol | lsr | ror
  deriving DecidableEq, Repr

/-- The memory decrement and increment. -/
inductive BumpOp where
  | dec | inc
  deriving DecidableEq, Repr

/-- An instruction seen as an operation and its operand. -/
inductive Form where
  | implied (op : ImpliedOp)
  | branch (flag : BranchFlag) (polarity : Bool) (d : Int)
  | brk
  | jsr (w : Word)
  | rti
  | rts
  | jmp (j : Jump)
  | read (op : ReadOp) (src : Src)
  | store (op : StoreOp) (m : Addr)
  | shift (op : ShiftOp) (pl : Place)
  | bump (op : BumpOp) (m : Addr)
  deriving DecidableEq, Repr

end Sys2Proof
end

