-- ==== Sys2Proof/WellFormed.lean ====
section
/-! DEFINITION. Which terms of Instr are instructions. A byte or word operand is well formed by its type; the one check
left is a branch's displacement, which its byte holds only from -128 to 127 (30_encoding.md R84, R85). -/
namespace Sys2Proof

/-- The displacement of a branch, none for any other instruction. -/
def Instr.displacement : Instr → Option Int
  | .php => none
  | .plp => none
  | .pha => none
  | .pla => none
  | .clc => none
  | .sec => none
  | .cli => none
  | .sei => none
  | .clv => none
  | .cld => none
  | .sed => none
  | .dey => none
  | .iny => none
  | .inx => none
  | .dex => none
  | .tya => none
  | .tay => none
  | .txa => none
  | .tax => none
  | .txs => none
  | .tsx => none
  | .nop => none
  | .bpl d => some d
  | .bmi d => some d
  | .bvc d => some d
  | .bvs d => some d
  | .bcc d => some d
  | .bcs d => some d
  | .bne d => some d
  | .beq d => some d
  | .brk => none
  | .jsr _ => none
  | .rti => none
  | .rts => none
  | .bitZp _ => none
  | .bitAbs _ => none
  | .jmpAbs _ => none
  | .jmpInd _ => none
  | .styZp _ => none
  | .styAbs _ => none
  | .styZpx _ => none
  | .ldyImm _ => none
  | .ldyZp _ => none
  | .ldyAbs _ => none
  | .ldyZpx _ => none
  | .ldyAbx _ => none
  | .cpyImm _ => none
  | .cpyZp _ => none
  | .cpyAbs _ => none
  | .cpxImm _ => none
  | .cpxZp _ => none
  | .cpxAbs _ => none
  | .oraIzx _ => none
  | .oraZp _ => none
  | .oraImm _ => none
  | .oraAbs _ => none
  | .oraIzy _ => none
  | .oraZpx _ => none
  | .oraAby _ => none
  | .oraAbx _ => none
  | .andIzx _ => none
  | .andZp _ => none
  | .andImm _ => none
  | .andAbs _ => none
  | .andIzy _ => none
  | .andZpx _ => none
  | .andAby _ => none
  | .andAbx _ => none
  | .eorIzx _ => none
  | .eorZp _ => none
  | .eorImm _ => none
  | .eorAbs _ => none
  | .eorIzy _ => none
  | .eorZpx _ => none
  | .eorAby _ => none
  | .eorAbx _ => none
  | .adcIzx _ => none
  | .adcZp _ => none
  | .adcImm _ => none
  | .adcAbs _ => none
  | .adcIzy _ => none
  | .adcZpx _ => none
  | .adcAby _ => none
  | .adcAbx _ => none
  | .staIzx _ => none
  | .staZp _ => none
  | .staAbs _ => none
  | .staIzy _ => none
  | .staZpx _ => none
  | .staAby _ => none
  | .staAbx _ => none
  | .ldaIzx _ => none
  | .ldaZp _ => none
  | .ldaImm _ => none
  | .ldaAbs _ => none
  | .ldaIzy _ => none
  | .ldaZpx _ => none
  | .ldaAby _ => none
  | .ldaAbx _ => none
  | .cmpIzx _ => none
  | .cmpZp _ => none
  | .cmpImm _ => none
  | .cmpAbs _ => none
  | .cmpIzy _ => none
  | .cmpZpx _ => none
  | .cmpAby _ => none
  | .cmpAbx _ => none
  | .sbcIzx _ => none
  | .sbcZp _ => none
  | .sbcImm _ => none
  | .sbcAbs _ => none
  | .sbcIzy _ => none
  | .sbcZpx _ => none
  | .sbcAby _ => none
  | .sbcAbx _ => none
  | .aslZp _ => none
  | .aslAcc => none
  | .aslAbs _ => none
  | .aslZpx _ => none
  | .aslAbx _ => none
  | .rolZp _ => none
  | .rolAcc => none
  | .rolAbs _ => none
  | .rolZpx _ => none
  | .rolAbx _ => none
  | .lsrZp _ => none
  | .lsrAcc => none
  | .lsrAbs _ => none
  | .lsrZpx _ => none
  | .lsrAbx _ => none
  | .rorZp _ => none
  | .rorAcc => none
  | .rorAbs _ => none
  | .rorZpx _ => none
  | .rorAbx _ => none
  | .stxZp _ => none
  | .stxAbs _ => none
  | .stxZpy _ => none
  | .ldxImm _ => none
  | .ldxZp _ => none
  | .ldxAbs _ => none
  | .ldxZpy _ => none
  | .ldxAby _ => none
  | .decZp _ => none
  | .decAbs _ => none
  | .decZpx _ => none
  | .decAbx _ => none
  | .incZp _ => none
  | .incAbs _ => none
  | .incZpx _ => none
  | .incAbx _ => none

/-- A displacement fits the operand byte: "the difference is in -128..127" (30_encoding.md R85). -/
abbrev displacementFits (d : Int) : Prop := -128 ≤ d ∧ d ≤ 127

/-- Every check there is: a branch's displacement fits. -/
abbrev Instr.WellFormed (i : Instr) : Prop := ∀ d ∈ i.displacement, displacementFits d

end Sys2Proof
end

