-- ==== Sys2Proof/Decode.lean ====
section
/-! DEFINITION. From bytes to instructions and back: byte-order and field helpers, the classification of the opcode by
the five tests of 30_encoding.md R74 to R82, the decoder, then the encoder written from the opcode tables of
46_group_cc0.md to 48_group_cc2.md, and the view of an instruction as operation and operand. -/
namespace Sys2Proof

/-! ## Byte order and fields -/

/-- The word with high byte `hi` and low byte `lo`, "{h, l}" (00_scope.md R9); the low byte stands at the lower address
(20_memory.md R54). -/
def wordOf (lo hi : Byte) : Word := hi ++ lo

/-- `w[7:0]`. -/
def loByte (w : Word) : Byte := w.extractLsb' 0 8

/-- `w[15:8]`. -/
def hiByte (w : Word) : Byte := w.extractLsb' 8 8

/-- The displacement byte "read as signed" (30_encoding.md R84): 0x80 to 0xFF are -128 to -1. -/
def displacementOf (b : Byte) : Int := b.toInt

/-- The displacement byte of a displacement. -/
def displacementByte (d : Int) : Byte := BitVec.ofInt 8 d

/-- `cc = opcode & 0b11` (30_encoding.md R73). -/
def fieldCc (op : Byte) : Nat := op.toNat % 4

/-- `bbb = (opcode >> 2) & 0b111` (30_encoding.md R73). -/
def fieldBbb (op : Byte) : Nat := op.toNat / 4 % 8

/-- `aaa = (opcode >> 5) & 0b111` (30_encoding.md R73). -/
def fieldAaa (op : Byte) : Nat := op.toNat / 32

/-! ## The tables -/

/-- The implied table (30_encoding.md R82); 0xDA and 0xFA, which match the test of R75, have no entry. -/
def decodeImplied (op : Byte) : Option Instr :=
  match op.toNat with
  | 0x08 => some .php
  | 0x18 => some .clc
  | 0x28 => some .plp
  | 0x38 => some .sec
  | 0x48 => some .pha
  | 0x58 => some .cli
  | 0x68 => some .pla
  | 0x78 => some .sei
  | 0x88 => some .dey
  | 0x8A => some .txa
  | 0x98 => some .tya
  | 0x9A => some .txs
  | 0xA8 => some .tay
  | 0xAA => some .tax
  | 0xB8 => some .clv
  | 0xBA => some .tsx
  | 0xC8 => some .iny
  | 0xCA => some .dex
  | 0xD8 => some .cld
  | 0xE8 => some .inx
  | 0xEA => some .nop
  | 0xF8 => some .sed
  | _ => none

/-- The branches (30_encoding.md R76): opcode bits 7..5, that is selector and polarity, give the row. -/
def decodeBranch (op b1 : Byte) : Option Instr :=
  let d := displacementOf b1
  match op.toNat / 32 with
  | 0 => some (.bpl d)
  | 1 => some (.bmi d)
  | 2 => some (.bvc d)
  | 3 => some (.bvs d)
  | 4 => some (.bcc d)
  | 5 => some (.bcs d)
  | 6 => some (.bne d)
  | 7 => some (.beq d)
  | _ => none

/-- The four fixed control opcodes (30_encoding.md R77). -/
def decodeControl (op b1 b2 : Byte) : Option Instr :=
  match op.toNat with
  | 0x00 => some .brk
  | 0x20 => some (.jsr (wordOf b1 b2))
  | 0x40 => some .rti
  | 0x60 => some .rts
  | _ => none

/-- Group0 (30_encoding.md R78). Row `aaa`, column `bbb` = 0 to 7
(Immediate, Zero page, -, Absolute or Indirect, -, Zero page,X, -, Absolute,X); `none` is a combination absent from the table. -/
def group0Row (aaa : Nat) (b1 b2 : Byte) : List (Option Instr) :=
  let w := wordOf b1 b2
  match aaa with
  | 1 => [none, some (.bitZp b1), none, some (.bitAbs w),
      none, none, none, none]
  | 2 => [none, none, none, some (.jmpAbs w),
      none, none, none, none]
  | 3 => [none, none, none, some (.jmpInd w),
      none, none, none, none]
  | 4 => [none, some (.styZp b1), none, some (.styAbs w),
      none, some (.styZpx b1), none, none]
  | 5 => [some (.ldyImm b1), some (.ldyZp b1), none, some (.ldyAbs w),
      none, some (.ldyZpx b1), none, some (.ldyAbx w)]
  | 6 => [some (.cpyImm b1), some (.cpyZp b1), none, some (.cpyAbs w),
      none, none, none, none]
  | 7 => [some (.cpxImm b1), some (.cpxZp b1), none, some (.cpxAbs w),
      none, none, none, none]
  | _ => []

/-- Group1 (30_encoding.md R79). Row `aaa`, column `bbb` = 0 to 7
((Zero page,X), Zero page, Immediate, Absolute, (Zero page),Y, Zero page,X, Absolute,Y, Absolute,X); `none` is a combination absent from the table. -/
def group1Row (aaa : Nat) (b1 b2 : Byte) : List (Option Instr) :=
  let w := wordOf b1 b2
  match aaa with
  | 0 => [some (.oraIzx b1), some (.oraZp b1), some (.oraImm b1), some (.oraAbs w),
      some (.oraIzy b1), some (.oraZpx b1), some (.oraAby w), some (.oraAbx w)]
  | 1 => [some (.andIzx b1), some (.andZp b1), some (.andImm b1), some (.andAbs w),
      some (.andIzy b1), some (.andZpx b1), some (.andAby w), some (.andAbx w)]
  | 2 => [some (.eorIzx b1), some (.eorZp b1), some (.eorImm b1), some (.eorAbs w),
      some (.eorIzy b1), some (.eorZpx b1), some (.eorAby w), some (.eorAbx w)]
  | 3 => [some (.adcIzx b1), some (.adcZp b1), some (.adcImm b1), some (.adcAbs w),
      some (.adcIzy b1), some (.adcZpx b1), some (.adcAby w), some (.adcAbx w)]
  | 4 => [some (.staIzx b1), some (.staZp b1), none, some (.staAbs w),
      some (.staIzy b1), some (.staZpx b1), some (.staAby w), some (.staAbx w)]
  | 5 => [some (.ldaIzx b1), some (.ldaZp b1), some (.ldaImm b1), some (.ldaAbs w),
      some (.ldaIzy b1), some (.ldaZpx b1), some (.ldaAby w), some (.ldaAbx w)]
  | 6 => [some (.cmpIzx b1), some (.cmpZp b1), some (.cmpImm b1), some (.cmpAbs w),
      some (.cmpIzy b1), some (.cmpZpx b1), some (.cmpAby w), some (.cmpAbx w)]
  | 7 => [some (.sbcIzx b1), some (.sbcZp b1), some (.sbcImm b1), some (.sbcAbs w),
      some (.sbcIzy b1), some (.sbcZpx b1), some (.sbcAby w), some (.sbcAbx w)]
  | _ => []

/-- Group2 (30_encoding.md R80). Row `aaa`, column `bbb` = 0 to 7
(Immediate, Zero page, Accumulator, Absolute, -, Zero page,X or Y, -, Absolute,X or Y); `none` is a combination absent from the table. -/
def group2Row (aaa : Nat) (b1 b2 : Byte) : List (Option Instr) :=
  let w := wordOf b1 b2
  match aaa with
  | 0 => [none, some (.aslZp b1), some .aslAcc, some (.aslAbs w),
      none, some (.aslZpx b1), none, some (.aslAbx w)]
  | 1 => [none, some (.rolZp b1), some .rolAcc, some (.rolAbs w),
      none, some (.rolZpx b1), none, some (.rolAbx w)]
  | 2 => [none, some (.lsrZp b1), some .lsrAcc, some (.lsrAbs w),
      none, some (.lsrZpx b1), none, some (.lsrAbx w)]
  | 3 => [none, some (.rorZp b1), some .rorAcc, some (.rorAbs w),
      none, some (.rorZpx b1), none, some (.rorAbx w)]
  | 4 => [none, some (.stxZp b1), none, some (.stxAbs w),
      none, some (.stxZpy b1), none, none]
  | 5 => [some (.ldxImm b1), some (.ldxZp b1), none, some (.ldxAbs w),
      none, some (.ldxZpy b1), none, some (.ldxAby w)]
  | 6 => [none, some (.decZp b1), none, some (.decAbs w),
      none, some (.decZpx b1), none, some (.decAbx w)]
  | 7 => [none, some (.incZp b1), none, some (.incAbs w),
      none, some (.incZpx b1), none, some (.incAbx w)]
  | _ => []

/-- Test 4: the group `cc` selects, its row `aaa`, its column `bbb`; there is no table for `cc = 3`. -/
def decodeGroup (op b1 b2 : Byte) : Option Instr :=
  let row := match fieldCc op with
    | 0 => group0Row (fieldAaa op) b1 b2
    | 1 => group1Row (fieldAaa op) b1 b2
    | 2 => group2Row (fieldAaa op) b1 b2
    | _ => []
  row[fieldBbb op]?.join

/-! ## The decoder -/

/-- Test 1: "low nibble == 0x08, or (opcode >= 0x80 and low nibble == 0x0A)" (30_encoding.md R75). -/
def isImpliedOpcode (op : Byte) : Bool :=
  op.toNat % 16 == 0x8 || (decide (op.toNat ≥ 0x80) && op.toNat % 16 == 0xA)

/-- Test 2: the low five bits are 0b10000 (30_encoding.md R76). -/
def isBranchOpcode (op : Byte) : Bool := op.toNat % 32 == 0x10

/-- Test 3: 0x00, 0x20, 0x40, 0x60 (30_encoding.md R77). -/
def isControlOpcode (op : Byte) : Bool :=
  op.toNat == 0x00 || op.toNat == 0x20 || op.toNat == 0x40 || op.toNat == 0x60

/-- The instruction of opcode `op` with the operand bytes `b1`, `b2` (those it has), by the five tests in order, "first
match wins" (30_encoding.md R74); `none` is test 5, class Illegal (R81). -/
def decodeOpcode (op b1 b2 : Byte) : Option Instr :=
  if isImpliedOpcode op then decodeImplied op
  else if isBranchOpcode op then decodeBranch op b1
  else if isControlOpcode op then decodeControl op b1 b2
  else decodeGroup op b1 b2

/-! ## Operation and operand -/

/-- The instruction as operation and operand; the modes are those of the `bbb` tables of 30_encoding.md R78 to R80. -/
def Instr.form : Instr → Form
  | .php => .implied .php
  | .plp => .implied .plp
  | .pha => .implied .pha
  | .pla => .implied .pla
  | .clc => .implied .clc
  | .sec => .implied .sec
  | .cli => .implied .cli
  | .sei => .implied .sei
  | .clv => .implied .clv
  | .cld => .implied .cld
  | .sed => .implied .sed
  | .dey => .implied .dey
  | .iny => .implied .iny
  | .inx => .implied .inx
  | .dex => .implied .dex
  | .tya => .implied .tya
  | .tay => .implied .tay
  | .txa => .implied .txa
  | .tax => .implied .tax
  | .txs => .implied .txs
  | .tsx => .implied .tsx
  | .nop => .implied .nop
  | .bpl d => .branch .negative false d
  | .bmi d => .branch .negative true d
  | .bvc d => .branch .overflow false d
  | .bvs d => .branch .overflow true d
  | .bcc d => .branch .carry false d
  | .bcs d => .branch .carry true d
  | .bne d => .branch .zero false d
  | .beq d => .branch .zero true d
  | .brk => .brk
  | .jsr w => .jsr w
  | .rti => .rti
  | .rts => .rts
  | .bitZp d => .read .bit (.mem (.zp d))
  | .bitAbs w => .read .bit (.mem (.abs w))
  | .jmpAbs w => .jmp (.abs w)
  | .jmpInd w => .jmp (.ind w)
  | .styZp d => .store .sty (.zp d)
  | .styAbs w => .store .sty (.abs w)
  | .styZpx d => .store .sty (.zpx d)
  | .ldyImm v => .read .ldy (.imm v)
  | .ldyZp d => .read .ldy (.mem (.zp d))
  | .ldyAbs w => .read .ldy (.mem (.abs w))
  | .ldyZpx d => .read .ldy (.mem (.zpx d))
  | .ldyAbx w => .read .ldy (.mem (.abx w))
  | .cpyImm v => .read .cpy (.imm v)
  | .cpyZp d => .read .cpy (.mem (.zp d))
  | .cpyAbs w => .read .cpy (.mem (.abs w))
  | .cpxImm v => .read .cpx (.imm v)
  | .cpxZp d => .read .cpx (.mem (.zp d))
  | .cpxAbs w => .read .cpx (.mem (.abs w))
  | .oraIzx d => .read .ora (.mem (.izx d))
  | .oraZp d => .read .ora (.mem (.zp d))
  | .oraImm v => .read .ora (.imm v)
  | .oraAbs w => .read .ora (.mem (.abs w))
  | .oraIzy d => .read .ora (.mem (.izy d))
  | .oraZpx d => .read .ora (.mem (.zpx d))
  | .oraAby w => .read .ora (.mem (.aby w))
  | .oraAbx w => .read .ora (.mem (.abx w))
  | .andIzx d => .read .and (.mem (.izx d))
  | .andZp d => .read .and (.mem (.zp d))
  | .andImm v => .read .and (.imm v)
  | .andAbs w => .read .and (.mem (.abs w))
  | .andIzy d => .read .and (.mem (.izy d))
  | .andZpx d => .read .and (.mem (.zpx d))
  | .andAby w => .read .and (.mem (.aby w))
  | .andAbx w => .read .and (.mem (.abx w))
  | .eorIzx d => .read .eor (.mem (.izx d))
  | .eorZp d => .read .eor (.mem (.zp d))
  | .eorImm v => .read .eor (.imm v)
  | .eorAbs w => .read .eor (.mem (.abs w))
  | .eorIzy d => .read .eor (.mem (.izy d))
  | .eorZpx d => .read .eor (.mem (.zpx d))
  | .eorAby w => .read .eor (.mem (.aby w))
  | .eorAbx w => .read .eor (.mem (.abx w))
  | .adcIzx d => .read .adc (.mem (.izx d))
  | .adcZp d => .read .adc (.mem (.zp d))
  | .adcImm v => .read .adc (.imm v)
  | .adcAbs w => .read .adc (.mem (.abs w))
  | .adcIzy d => .read .adc (.mem (.izy d))
  | .adcZpx d => .read .adc (.mem (.zpx d))
  | .adcAby w => .read .adc (.mem (.aby w))
  | .adcAbx w => .read .adc (.mem (.abx w))
  | .staIzx d => .store .sta (.izx d)
  | .staZp d => .store .sta (.zp d)
  | .staAbs w => .store .sta (.abs w)
  | .staIzy d => .store .sta (.izy d)
  | .staZpx d => .store .sta (.zpx d)
  | .staAby w => .store .sta (.aby w)
  | .staAbx w => .store .sta (.abx w)
  | .ldaIzx d => .read .lda (.mem (.izx d))
  | .ldaZp d => .read .lda (.mem (.zp d))
  | .ldaImm v => .read .lda (.imm v)
  | .ldaAbs w => .read .lda (.mem (.abs w))
  | .ldaIzy d => .read .lda (.mem (.izy d))
  | .ldaZpx d => .read .lda (.mem (.zpx d))
  | .ldaAby w => .read .lda (.mem (.aby w))
  | .ldaAbx w => .read .lda (.mem (.abx w))
  | .cmpIzx d => .read .cmp (.mem (.izx d))
  | .cmpZp d => .read .cmp (.mem (.zp d))
  | .cmpImm v => .read .cmp (.imm v)
  | .cmpAbs w => .read .cmp (.mem (.abs w))
  | .cmpIzy d => .read .cmp (.mem (.izy d))
  | .cmpZpx d => .read .cmp (.mem (.zpx d))
  | .cmpAby w => .read .cmp (.mem (.aby w))
  | .cmpAbx w => .read .cmp (.mem (.abx w))
  | .sbcIzx d => .read .sbc (.mem (.izx d))
  | .sbcZp d => .read .sbc (.mem (.zp d))
  | .sbcImm v => .read .sbc (.imm v)
  | .sbcAbs w => .read .sbc (.mem (.abs w))
  | .sbcIzy d => .read .sbc (.mem (.izy d))
  | .sbcZpx d => .read .sbc (.mem (.zpx d))
  | .sbcAby w => .read .sbc (.mem (.aby w))
  | .sbcAbx w => .read .sbc (.mem (.abx w))
  | .aslZp d => .shift .asl (.mem (.zp d))
  | .aslAcc => .shift .asl .acc
  | .aslAbs w => .shift .asl (.mem (.abs w))
  | .aslZpx d => .shift .asl (.mem (.zpx d))
  | .aslAbx w => .shift .asl (.mem (.abx w))
  | .rolZp d => .shift .rol (.mem (.zp d))
  | .rolAcc => .shift .rol .acc
  | .rolAbs w => .shift .rol (.mem (.abs w))
  | .rolZpx d => .shift .rol (.mem (.zpx d))
  | .rolAbx w => .shift .rol (.mem (.abx w))
  | .lsrZp d => .shift .lsr (.mem (.zp d))
  | .lsrAcc => .shift .lsr .acc
  | .lsrAbs w => .shift .lsr (.mem (.abs w))
  | .lsrZpx d => .shift .lsr (.mem (.zpx d))
  | .lsrAbx w => .shift .lsr (.mem (.abx w))
  | .rorZp d => .shift .ror (.mem (.zp d))
  | .rorAcc => .shift .ror .acc
  | .rorAbs w => .shift .ror (.mem (.abs w))
  | .rorZpx d => .shift .ror (.mem (.zpx d))
  | .rorAbx w => .shift .ror (.mem (.abx w))
  | .stxZp d => .store .stx (.zp d)
  | .stxAbs w => .store .stx (.abs w)
  | .stxZpy d => .store .stx (.zpy d)
  | .ldxImm v => .read .ldx (.imm v)
  | .ldxZp d => .read .ldx (.mem (.zp d))
  | .ldxAbs w => .read .ldx (.mem (.abs w))
  | .ldxZpy d => .read .ldx (.mem (.zpy d))
  | .ldxAby w => .read .ldx (.mem (.aby w))
  | .decZp d => .bump .dec (.zp d)
  | .decAbs w => .bump .dec (.abs w)
  | .decZpx d => .bump .dec (.zpx d)
  | .decAbx w => .bump .dec (.abx w)
  | .incZp d => .bump .inc (.zp d)
  | .incAbs w => .bump .inc (.abs w)
  | .incZpx d => .bump .inc (.zpx d)
  | .incAbx w => .bump .inc (.abx w)

/-- Instruction length of a memory mode, opcode byte included (30_encoding.md R72). -/
def Addr.length : Addr → Nat
  | .zp _ | .zpx _ | .zpy _ | .izx _ | .izy _ => 2
  | .abs _ | .abx _ | .aby _ => 3

/-- Instruction length of a reading mode; Immediate is 2 (30_encoding.md R72). -/
def Src.length : Src → Nat
  | .imm _ => 2
  | .mem m => m.length

/-- Instruction length of a shift; Accumulator is 1 (30_encoding.md R72). -/
def Place.length : Place → Nat
  | .acc => 1
  | .mem m => m.length

/-- Instruction length (30_encoding.md R72). -/
def Form.length : Form → Nat
  | .implied _ | .brk | .rti | .rts => 1
  | .branch _ _ _ => 2
  | .jsr _ | .jmp _ => 3
  | .read _ src => src.length
  | .store _ m | .bump _ m => m.length
  | .shift _ pl => pl.length

/-- Instruction length, 1 to 3 bytes. -/
def Instr.length (i : Instr) : Nat := i.form.length

/-! ## The encoder -/

/-- The opcode byte, from the tables of 43_implied.md to 48_group_cc2.md. -/
def Instr.opcode : Instr → Byte
  | .php => 0x08
  | .plp => 0x28
  | .pha => 0x48
  | .pla => 0x68
  | .clc => 0x18
  | .sec => 0x38
  | .cli => 0x58
  | .sei => 0x78
  | .clv => 0xB8
  | .cld => 0xD8
  | .sed => 0xF8
  | .dey => 0x88
  | .iny => 0xC8
  | .inx => 0xE8
  | .dex => 0xCA
  | .tya => 0x98
  | .tay => 0xA8
  | .txa => 0x8A
  | .tax => 0xAA
  | .txs => 0x9A
  | .tsx => 0xBA
  | .nop => 0xEA
  | .bpl _ => 0x10
  | .bmi _ => 0x30
  | .bvc _ => 0x50
  | .bvs _ => 0x70
  | .bcc _ => 0x90
  | .bcs _ => 0xB0
  | .bne _ => 0xD0
  | .beq _ => 0xF0
  | .brk => 0x00
  | .jsr _ => 0x20
  | .rti => 0x40
  | .rts => 0x60
  | .bitZp _ => 0x24
  | .bitAbs _ => 0x2C
  | .jmpAbs _ => 0x4C
  | .jmpInd _ => 0x6C
  | .styZp _ => 0x84
  | .styAbs _ => 0x8C
  | .styZpx _ => 0x94
  | .ldyImm _ => 0xA0
  | .ldyZp _ => 0xA4
  | .ldyAbs _ => 0xAC
  | .ldyZpx _ => 0xB4
  | .ldyAbx _ => 0xBC
  | .cpyImm _ => 0xC0
  | .cpyZp _ => 0xC4
  | .cpyAbs _ => 0xCC
  | .cpxImm _ => 0xE0
  | .cpxZp _ => 0xE4
  | .cpxAbs _ => 0xEC
  | .oraIzx _ => 0x01
  | .oraZp _ => 0x05
  | .oraImm _ => 0x09
  | .oraAbs _ => 0x0D
  | .oraIzy _ => 0x11
  | .oraZpx _ => 0x15
  | .oraAby _ => 0x19
  | .oraAbx _ => 0x1D
  | .andIzx _ => 0x21
  | .andZp _ => 0x25
  | .andImm _ => 0x29
  | .andAbs _ => 0x2D
  | .andIzy _ => 0x31
  | .andZpx _ => 0x35
  | .andAby _ => 0x39
  | .andAbx _ => 0x3D
  | .eorIzx _ => 0x41
  | .eorZp _ => 0x45
  | .eorImm _ => 0x49
  | .eorAbs _ => 0x4D
  | .eorIzy _ => 0x51
  | .eorZpx _ => 0x55
  | .eorAby _ => 0x59
  | .eorAbx _ => 0x5D
  | .adcIzx _ => 0x61
  | .adcZp _ => 0x65
  | .adcImm _ => 0x69
  | .adcAbs _ => 0x6D
  | .adcIzy _ => 0x71
  | .adcZpx _ => 0x75
  | .adcAby _ => 0x79
  | .adcAbx _ => 0x7D
  | .staIzx _ => 0x81
  | .staZp _ => 0x85
  | .staAbs _ => 0x8D
  | .staIzy _ => 0x91
  | .staZpx _ => 0x95
  | .staAby _ => 0x99
  | .staAbx _ => 0x9D
  | .ldaIzx _ => 0xA1
  | .ldaZp _ => 0xA5
  | .ldaImm _ => 0xA9
  | .ldaAbs _ => 0xAD
  | .ldaIzy _ => 0xB1
  | .ldaZpx _ => 0xB5
  | .ldaAby _ => 0xB9
  | .ldaAbx _ => 0xBD
  | .cmpIzx _ => 0xC1
  | .cmpZp _ => 0xC5
  | .cmpImm _ => 0xC9
  | .cmpAbs _ => 0xCD
  | .cmpIzy _ => 0xD1
  | .cmpZpx _ => 0xD5
  | .cmpAby _ => 0xD9
  | .cmpAbx _ => 0xDD
  | .sbcIzx _ => 0xE1
  | .sbcZp _ => 0xE5
  | .sbcImm _ => 0xE9
  | .sbcAbs _ => 0xED
  | .sbcIzy _ => 0xF1
  | .sbcZpx _ => 0xF5
  | .sbcAby _ => 0xF9
  | .sbcAbx _ => 0xFD
  | .aslZp _ => 0x06
  | .aslAcc => 0x0A
  | .aslAbs _ => 0x0E
  | .aslZpx _ => 0x16
  | .aslAbx _ => 0x1E
  | .rolZp _ => 0x26
  | .rolAcc => 0x2A
  | .rolAbs _ => 0x2E
  | .rolZpx _ => 0x36
  | .rolAbx _ => 0x3E
  | .lsrZp _ => 0x46
  | .lsrAcc => 0x4A
  | .lsrAbs _ => 0x4E
  | .lsrZpx _ => 0x56
  | .lsrAbx _ => 0x5E
  | .rorZp _ => 0x66
  | .rorAcc => 0x6A
  | .rorAbs _ => 0x6E
  | .rorZpx _ => 0x76
  | .rorAbx _ => 0x7E
  | .stxZp _ => 0x86
  | .stxAbs _ => 0x8E
  | .stxZpy _ => 0x96
  | .ldxImm _ => 0xA2
  | .ldxZp _ => 0xA6
  | .ldxAbs _ => 0xAE
  | .ldxZpy _ => 0xB6
  | .ldxAby _ => 0xBE
  | .decZp _ => 0xC6
  | .decAbs _ => 0xCE
  | .decZpx _ => 0xD6
  | .decAbx _ => 0xDE
  | .incZp _ => 0xE6
  | .incAbs _ => 0xEE
  | .incZpx _ => 0xF6
  | .incAbx _ => 0xFE

/-- The operand bytes of a memory mode, low byte first (30_encoding.md R70, R84). -/
def Addr.bytes : Addr → List Byte
  | .zp d | .zpx d | .zpy d | .izx d | .izy d => [d]
  | .abs w | .abx w | .aby w => [loByte w, hiByte w]

/-- The operand bytes of an instruction (30_encoding.md R70, R84). -/
def Form.operandBytes : Form → List Byte
  | .implied _ | .brk | .rti | .rts | .shift _ .acc => []
  | .branch _ _ d => [displacementByte d]
  | .jsr w | .jmp (.abs w) | .jmp (.ind w) => [loByte w, hiByte w]
  | .read _ (.imm v) => [v]
  | .read _ (.mem m) | .store _ m | .shift _ (.mem m) | .bump _ m => m.bytes

/-- The bytes of an instruction, opcode first. -/
def encode (i : Instr) : List Byte := i.opcode :: i.form.operandBytes

/-! ## Decoding a list of bytes -/

/-- Why bytes are no instruction. -/
inductive DecodeError where
  /-- The opcode is one of the 105 Illegal ones (30_encoding.md R81). -/
  | illegalOpcode (op : Byte)
  /-- The list ends before the instruction does; a fetch from memory never meets this. -/
  | truncated
  deriving DecidableEq, Repr

/-- What decoding answers: an instruction and the bytes after it, or a rejection by name. -/
inductive Decoded where
  | instr (i : Instr) (rest : List Byte)
  | rejected (e : DecodeError)
  deriving DecidableEq, Repr

/-- Decode the first instruction of a list of bytes. -/
def decode : List Byte → Decoded
  | [] => .rejected .truncated
  | op :: rest =>
    match decodeOpcode op (rest.getD 0 0) (rest.getD 1 0) with
    | none => .rejected (.illegalOpcode op)
    | some i => if rest.length + 1 < i.length then .rejected .truncated else .instr i (rest.drop (i.length - 1))

/-- The three bytes of an instruction given as the number spec/opcode_table.json numbers it by: bit 0 is the least
significant bit of the first byte, later bytes count on from it, every bit at or above `nbits` is 0. -/
def tableBytes (nbits w : Nat) : List Byte :=
  let v := w % 2 ^ nbits
  [BitVec.ofNat 8 v, BitVec.ofNat 8 (v / 0x100), BitVec.ofNat 8 (v / 0x10000)]

/-- The instruction the decoder reads from an instruction whose bits are `w`. -/
def decodeTableWord (nbits w : Nat) : Option Instr :=
  match decode (tableBytes nbits w) with
  | .instr i _ => some i
  | .rejected _ => none

end Sys2Proof
end

