-- ==== Sys2Proof/Machine/State.lean ====
section
/-! DEFINITION. The state of the machine (10_state.md R20), the reasons a step can stop, and the state after reset. -/
namespace Sys2Proof.Machine

/-- The three kinds of fault, "names, not numbers" (60_exceptions.md R300). -/
inductive FaultKind where
  | decodeFault
  | stackOverflow
  | stackUnderflow
  deriving DecidableEq, Repr

/-- The fault descriptor `(kind, opcode, address)`; the address is the opcode's own, `a0` (10_state.md R33). -/
structure FaultDescriptor where
  kind : FaultKind
  opcode : Byte
  address : Word
  deriving DecidableEq, Repr

/-- The whole state of one machine (10_state.md R20) and the model's own `cfg` and `callouts`. -/
structure State where
  /-- Accumulator (10_state.md R21). -/
  a : Byte
  /-- Index register X (10_state.md R21). -/
  x : Byte
  /-- Index register Y (10_state.md R21). -/
  y : Byte
  /-- Stack pointer, names the cell `0x0100 + SP` (10_state.md R23). -/
  sp : Byte
  /-- Program counter; between instructions the address of the next opcode byte (10_state.md R24). -/
  pc : Word
  /-- The eight flags (10_state.md R26). -/
  p : Flags
  /-- The 65536 bytes (10_state.md R36). -/
  mem : Memory
  /-- 1 after a fault (10_state.md R33). -/
  halted : Bool
  /-- The fault recorded, if any (10_state.md R33). -/
  fault : Option FaultDescriptor
  /-- The model's own: the host's parameters (00_scope.md R4); no instruction writes it. Assumption 4. -/
  cfg : HostConfig
  /-- The model's own: how many callout handlers have run; the argument that makes each one's effect fresh.
  Assumption 5. -/
  callouts : Nat
  deriving DecidableEq, Repr

/-- No step stops in the host's sense of a fault: each of the spec's three faults leaves a state that the spec gives in
full, `halted` set and the descriptor recorded (60_exceptions.md R301 to R303), and a halted machine steps to itself
(40_step_and_run.md R105), so each is a next state. Nothing raises this type; that is safe. Assumption 2. -/
inductive Fault : Type
  deriving DecidableEq, Repr

/-- Why a step is given no meaning. -/
inductive Refusal where
  /-- An arm of `exec` whose instruction has no meaning yet; no arm raises it. Safe. -/
  | notModelled (mnemonic : String)
  /-- JMP or JSR to an address at or above `CALLOUT_BASE` that has no registered handler: "a model refuses such a step
  (gives it no meaning)" (60_exceptions.md R314). Raised by `callout`. Safe. Assumption 6. -/
  | calloutUnhandled (target : Word)
  deriving DecidableEq, Repr

/-- The configuration at reset: no callout range, no handler (DESIGN CHOICE, assumption 4: the spec leaves both open);
both wrap parameters false (00_scope.md R4); the spec's base costs (70_reset_and_hazards.md R352, PRESUMED by the
spec, assumption 12). -/
def defaultConfig : HostConfig :=
  { calloutBase := 65536, handlers := [], zpPointerWrap := false, jmpIndirectPageWrap := false
    baseCycles := specBaseCycles }

/-- The machine right after reset (10_state.md R37, 70_reset_and_hazards.md R340). `pc` is a DESIGN CHOICE: reset does
not write PC (R342, assumption 1). -/
def State.reset : State where
  a := 0x00
  x := 0x00
  y := 0x00
  sp := 0xFF
  pc := 0x0000
  p := { c := false, z := false, i := true, d := false, b := false, u := false, v := false, n := false }
  mem := []
  halted := false
  fault := none
  cfg := defaultConfig
  callouts := 0

end Sys2Proof.Machine
end

