-- ==== Sys2Proof/Machine/Flags.lean ====
section
/-! DEFINITION. The flag byte, `SetZN`, and every value and flag the arithmetic-logic unit computes: compare, add and
subtract in binary and decimal, shifts and rotates. -/
namespace Sys2Proof

/-! ## The flag byte -/

/-- `pack(P)`: bits 7 down to 0 are N V U B D I Z C (10_state.md R28). -/
def Flags.pack (p : Flags) : Byte :=
  BitVec.ofBoolListBE [p.n, p.v, p.u, p.b, p.d, p.i, p.z, p.c]

/-- `unpack(v)`: all eight flags from the bits of `v` (10_state.md R29). -/
def Flags.unpack (v : Byte) : Flags :=
  { c := v[0], z := v[1], i := v[2], d := v[3], b := v[4], u := v[5], v := v[6], n := v[7] }

/-- `SetZN(v)`: `P.Z` is 1 when v is 0, `P.N` is v[7]; no other flag changes (10_state.md R30). -/
def Flags.setZN (p : Flags) (v : Byte) : Flags :=
  { p with z := decide (v = 0), n := v[7] }

namespace Machine

/-- The flag a branch selects (30_encoding.md R76). -/
def flagOf (f : BranchFlag) (p : Flags) : Bool :=
  match f with
  | .negative => p.n
  | .overflow => p.v
  | .carry => p.c
  | .zero => p.z

/-! ## Compare and bit test -/

/-- The flags of `Compare(r, m)` (46_group_cc0.md R208). -/
def compareFlags (r m : Byte) (p : Flags) : Flags :=
  { p with c := decide (m.toNat ≤ r.toNat) }.setZN (r - m)

/-- The flags of BIT: Z and N from the AND, V from bit 6 of the operand (46_group_cc0.md R201). -/
def bitFlags (a m : Byte) (p : Flags) : Flags :=
  { p with z := decide (a &&& m = 0), v := m[6], n := (a &&& m)[7] }

/-! ## Decimal helpers (47_group_cc1.md R229) -/

/-- Both nibbles are decimal digits. -/
def bcdValid (b : Byte) : Bool := decide (b.toNat / 16 ≤ 9) && decide (b.toNat % 16 ≤ 9)

/-- The number 0 to 99 that a valid byte stands for. -/
def bcdVal (b : Byte) : Nat := 10 * (b.toNat / 16) + b.toNat % 16

/-- The byte that stands for a number 0 to 99. -/
def bcdEnc (n : Nat) : Byte := BitVec.ofNat 8 (n / 10 * 16 + n % 10)

/-! ## Add with carry (47_group_cc1.md R224) -/

/-- `sum`, an integer 0 to 511. -/
def adcSum (a m : Byte) (c : Bool) : Nat := a.toNat + m.toNat + c.toNat

/-- `t = sum mod 256`. -/
def adcByte (a m : Byte) (c : Bool) : Byte := BitVec.ofNat 8 (adcSum a m c)

/-- `P.V`: A and the operand have one sign, the truncated sum the other. -/
def adcOverflow (a m : Byte) (c : Bool) : Bool :=
  decide (a[7] = m[7]) && decide ((adcByte a m c)[7] ≠ a[7])

/-- The new A and Carry of ADC, decimal when `d` is set. -/
def adcResult (d : Bool) (a m : Byte) (c : Bool) : Byte × Bool :=
  if d = false then (adcByte a m c, decide (adcSum a m c > 255))
  else if bcdValid a && bcdValid m then
    let n := bcdVal a + bcdVal m + c.toNat
    (bcdEnc (n % 100), decide (n > 99))
  else Config.bcdAdcInvalid a m c

/-- The flags of ADC: Z, N and V from the binary sum in both modes, Carry from the mode's own result. -/
def adcFlags (a m : Byte) (p : Flags) : Flags :=
  { p.setZN (adcByte a m p.c) with
    v := adcOverflow a m p.c
    c := (adcResult p.d a m p.c).2 }

/-! ## Subtract with borrow (47_group_cc1.md R228) -/

/-- The borrow in, 1 when Carry is clear. -/
def borrowOf (c : Bool) : Int := if c then 0 else 1

/-- The new A, Carry and Overflow of SBC, decimal when `d` is set. -/
def sbcResult (d : Bool) (a m : Byte) (c : Bool) : Byte × Bool × Bool :=
  if d = false then
    let r : Int := (a.toNat : Int) - m.toNat - borrowOf c
    (BitVec.ofInt 8 r, decide (0 ≤ r), decide (r < -128 ∨ 127 < r))
  else if bcdValid a && bcdValid m then
    let r : Int := (bcdVal a : Int) - bcdVal m - borrowOf c
    (bcdEnc (r % 100).toNat, decide (0 ≤ r), decide (r < 0 ∨ 99 < r))
  else Config.bcdSbcInvalid a m c

/-- The flags of SBC: Z and N from the byte stored, in both modes. -/
def sbcFlags (a m : Byte) (p : Flags) : Flags :=
  let r := sbcResult p.d a m p.c
  { p.setZN r.1 with c := r.2.1, v := r.2.2 }

/-! ## Shifts and rotates (48_group_cc2.md R251 to R254) -/

/-- The result byte of a shift or rotate of `v` with incoming Carry `c`. -/
def shiftByte (op : ShiftOp) (v : Byte) (c : Bool) : Byte :=
  match op with
  | .asl => v <<< 1
  | .rol => (v <<< 1) ||| (if c then 0x01 else 0x00)
  | .lsr => v >>> 1
  | .ror => (v >>> 1) ||| (if c then 0x80 else 0x00)

/-- The Carry out: old bit 7 to the left, old bit 0 to the right. -/
def shiftCarry (op : ShiftOp) (v : Byte) : Bool :=
  match op with
  | .asl | .rol => v[7]
  | .lsr | .ror => v[0]

/-- The flags of a shift or rotate: Carry, then `SetZN` of the result (48_group_cc2.md R250). -/
def shiftFlags (op : ShiftOp) (v : Byte) (p : Flags) : Flags :=
  { p with c := shiftCarry op v }.setZN (shiftByte op v p.c)

end Machine
end Sys2Proof
end

