-- ==== Sys2Proof/Machine/Ops.lean ====
section
/-! DEFINITION. The named operations over memory, the program counter and the stack; raising a fault; taking the BRK
trap and returning from it; the jump with its host callout. -/
namespace Sys2Proof

/-! ## Memory (20_memory.md) -/

/-- What an address that the list does not name reads as: `reset()` zeroes all of memory (70_reset_and_hazards.md
R340). -/
def Memory.unlisted : Byte := 0x00

/-- The canonical form from address `lo` on: addresses strictly rising and below 65536, no byte that an unlisted address
would read as. -/
def Memory.wfFrom (lo : Nat) : Memory → Bool
  | [] => true
  | (a, v) :: m => decide (lo ≤ a) && decide (a < 65536) && decide (v ≠ Memory.unlisted) && Memory.wfFrom (a + 1) m

/-- The canonical form. -/
def Memory.wf (m : Memory) : Bool := m.wfFrom 0

/-- The byte at an address. -/
def Memory.read : Memory → Nat → Byte
  | [], _ => Memory.unlisted
  | (b, w) :: m, a => if b = a then w else Memory.read m a

/-- The memory with one byte written, in canonical form again. -/
def Memory.write : Memory → Nat → Byte → Memory
  | [], a, v => if v = Memory.unlisted then [] else [(a, v)]
  | (b, w) :: m, a, v =>
    if a < b then (if v = Memory.unlisted then (b, w) :: m else (a, v) :: (b, w) :: m)
    else if a = b then (if v = Memory.unlisted then m else (a, v) :: m)
    else (b, w) :: Memory.write m a v

/-- Bytes written one after another. -/
def Memory.writeAll (m : Memory) : List (Word × Byte) → Memory
  | [] => m
  | (a, v) :: ws => Memory.writeAll (m.write a.toNat v) ws

namespace Machine

/-- What a meaning answers. -/
abbrev Result := Host.Outcome State Fault Refusal

/-- `MemRead(a, 1)` (20_memory.md R51). -/
def State.read (s : State) (a : Word) : Byte := s.mem.read a.toNat

/-- `MemWrite(a, 1, v)` (20_memory.md R52). -/
def State.write (s : State) (a : Word) (v : Byte) : State := { s with mem := s.mem.write a.toNat v }

/-- `MemRead(a, 2)`: low byte at `a`, high byte at `a + 1` modulo 65536 (20_memory.md R53, R54). -/
def State.read16 (s : State) (a : Word) : Word := wordOf (s.read a) (s.read (a + 1))

/-- Bytes written at consecutive addresses modulo 65536: an image load (00_scope.md R7), never an instruction. -/
def State.writeBytes (s : State) (a : Word) : List Byte → State
  | [] => s
  | v :: vs => (s.write a v).writeBytes (a + 1) vs

/-! ## Program counter -/

/-- `zext_16` (00_scope.md R10). -/
def zext16 (b : Byte) : Word := b.setWidth 16

/-- PC past an instruction of `n` bytes, modulo 65536 (10_state.md R24, R25). -/
def State.advance (s : State) (n : Nat) : State := { s with pc := s.pc + BitVec.ofNat 16 n }

/-! ## Register writes that set Z and N (10_state.md R30) -/

/-- `A <- v; SetZN(A)`. -/
def State.setA (s : State) (v : Byte) : State := { s with a := v, p := s.p.setZN v }

/-- `X <- v; SetZN(X)`. -/
def State.setX (s : State) (v : Byte) : State := { s with x := v, p := s.p.setZN v }

/-- `Y <- v; SetZN(Y)`. -/
def State.setY (s : State) (v : Byte) : State := { s with y := v, p := s.p.setZN v }

/-! ## Raising a fault (60_exceptions.md R301) -/

/-- `halted <- 1; fault <- (kind, opcode, a0)`; nothing else changes, nothing is rolled back (40_step_and_run.md
R106). -/
def State.halt (s : State) (kind : FaultKind) (opcode : Byte) (a0 : Word) : State :=
  { s with halted := true, fault := some { kind := kind, opcode := opcode, address := a0 } }

/-- What a DecodeFault leaves: PC past the opcode byte, and the halt (30_encoding.md R81). -/
def decodeFault (opcode : Byte) (s : State) : State := (s.advance 1).halt .decodeFault opcode s.pc

/-- The outcome of statements that may raise: a value and the state they leave, or the fault raised and the state as
the statements before the `raise` left it (40_step_and_run.md R106). -/
inductive Stacked (α : Type) where
  | done (v : α) (s : State)
  | raised (k : FaultKind) (s : State)

/-- Do `f` next; after a `raise` nothing more is done. -/
def Stacked.andThen {α β : Type} (r : Stacked α) (f : α → State → Stacked β) : Stacked β :=
  match r with
  | .done v s => f v s
  | .raised k s => .raised k s

/-- End the instruction whose opcode is `opcode` and whose address is `a0`: a fault raised halts the core. -/
def Stacked.settle (opcode : Byte) (a0 : Word) (r : Stacked Unit) : Result :=
  match r with
  | .done _ s => .next s
  | .raised k s => .next (s.halt k opcode a0)

/-! ## The stack (42_stack.md) -/

/-- The cell a stack pointer names, `0x0100 + SP` (42_stack.md R140). -/
def stackCell (sp : Byte) : Word := Config.stackBase + zext16 sp

/-- `Push8` (42_stack.md R141). -/
def push8 (v : Byte) (s : State) : Stacked Unit :=
  if s.sp = 0x00 then .raised .stackOverflow s
  else .done () { s.write (stackCell s.sp) v with sp := s.sp - 1 }

/-- `Pop8` (42_stack.md R142). -/
def pop8 (s : State) : Stacked Byte :=
  if s.sp = 0xFF then .raised .stackUnderflow s
  else .done (s.read (stackCell (s.sp + 1))) { s with sp := s.sp + 1 }

/-- `Push16`: high byte, then low byte (42_stack.md R143). -/
def push16 (w : Word) (s : State) : Stacked Unit :=
  (push8 (hiByte w) s).andThen fun _ s => push8 (loByte w) s

/-- `Pop16`: low byte, then high byte (42_stack.md R144). -/
def pop16 (s : State) : Stacked Word :=
  (pop8 s).andThen fun lo s => (pop8 s).andThen fun hi s => .done (wordOf lo hi) s

/-! ## The BRK trap and its return (60_exceptions.md R307, R308) -/

/-- Trap entry, from a state whose PC is already past the BRK opcode: Break is set, PC and then the flag byte are
pushed, and PC is the word at the vector (45_control.md R190). InterruptDisable is not touched. -/
def takeBreak (s : State) : Stacked Unit :=
  (push16 s.pc { s with p := { s.p with b := true } }).andThen fun _ s =>
    (push8 s.p.pack s).andThen fun _ s => .done () { s with pc := s.read16 Config.brkVector }

/-- Trap return: all eight flags, then PC, from the stack, "no adjustment" (45_control.md R192). -/
def returnFromBreak (s : State) : Stacked Unit :=
  (pop8 s).andThen fun v s =>
    (pop16 { s with p := Flags.unpack v }).andThen fun w s => .done () { s with pc := w }

/-- Return to the address after the one popped, as RTS does (45_control.md R193) and as the core does after a callout
handler (60_exceptions.md R311). -/
def returnFromSubroutine (s : State) : Stacked Unit :=
  (pop16 s).andThen fun w s => .done () { s with pc := w + 1 }

/-! ## The host callout (60_exceptions.md R310 to R314) -/

/-- What a handler sees (60_exceptions.md R311). -/
def State.handlerView (s : State) : HandlerView :=
  { a := s.a, x := s.x, y := s.y, sp := s.sp, p := s.p, mem := s.mem }

/-- The state a handler's effect leaves (60_exceptions.md R312). -/
def State.applyHandler (s : State) (e : HandlerEffect) : State :=
  { s with a := e.a, x := e.x, y := e.y, sp := e.sp, p := e.p, mem := Memory.writeAll s.mem e.writes
           callouts := s.callouts + 1 }

/-- The callout once its handler's effect is known: the effect, then the return through the word on top of the stack
(60_exceptions.md R311). -/
def calloutWith (e : HandlerEffect) (opcode : Byte) (a0 : Word) (s : State) : Result :=
  (returnFromSubroutine (s.applyHandler e)).settle opcode a0

/-- `Callout(t)`: refused when no handler is registered at exactly `t` (60_exceptions.md R311, R314). -/
def callout (t : Word) (opcode : Byte) (a0 : Word) (s : State) : Result :=
  if t ∈ s.cfg.handlers then calloutWith (Config.handlerEffect s.callouts t s.handlerView) opcode a0 s
  else .refused (.calloutUnhandled t)

/-- The end of JMP and JSR: a target at or above `CALLOUT_BASE` traps to the host, any other becomes PC
(60_exceptions.md R310). -/
def jumpTo (t : Word) (opcode : Byte) (a0 : Word) (s : State) : Result :=
  if s.cfg.calloutBase.val ≤ t.toNat then callout t opcode a0 s else .next { s with pc := t }

end Machine
end Sys2Proof
end

