-- ==== Sys2Proof/Machine/Operands.lean ====
section
/-! DEFINITION. The address resolver (41_addressing.md): the effective address of every memory mode, the jump targets,
and the loads and stores of an operand location. The operand bytes are those the decoder assembled (assumption 8). -/
namespace Sys2Proof.Machine

/-- `ZpPtr16(p)`: the pointer stored in the zero page at `p` (41_addressing.md R134). -/
def zpPtr16 (d : Byte) (s : State) : Word :=
  let hiAt : Word := if s.cfg.zpPointerWrap then zext16 (d + 1) else zext16 d + 1
  wordOf (s.read (zext16 d)) (s.read hiAt)

/-- The effective address of a memory mode (41_addressing.md R123 to R128, R130, R131). -/
def effectiveAddress (m : Addr) (s : State) : Word :=
  match m with
  | .zp d => zext16 d
  | .zpx d => zext16 (d + s.x)
  | .zpy d => zext16 (d + s.y)
  | .abs w => w
  | .abx w => w + zext16 s.x
  | .aby w => w + zext16 s.y
  | .izx d => zpPtr16 (d + s.x) s
  | .izy d => zpPtr16 d s + zext16 s.y

/-- The target of JMP (41_addressing.md R126, R129). -/
def jumpTarget (j : Jump) (s : State) : Word :=
  match j with
  | .abs w => w
  | .ind w =>
    let hiAt : Word := if s.cfg.jmpIndirectPageWrap ∧ loByte w = 0xFF then wordOf 0x00 (hiByte w) else w + 1
    wordOf (s.read w) (s.read hiAt)

/-- The operand byte of a reading instruction: the immediate byte itself (41_addressing.md R122) or a memory byte. -/
def operandOf (src : Src) (s : State) : Byte :=
  match src with
  | .imm v => v
  | .mem m => s.read (effectiveAddress m s)

/-- `Load(loc)` (41_addressing.md R136). -/
def loadPlace (pl : Place) (s : State) : Byte :=
  match pl with
  | .acc => s.a
  | .mem m => s.read (effectiveAddress m s)

/-- `Store(loc, v)` (41_addressing.md R136). -/
def storePlace (pl : Place) (v : Byte) (s : State) : State :=
  match pl with
  | .acc => { s with a := v }
  | .mem m => s.write (effectiveAddress m s) v

end Sys2Proof.Machine
end

