-- ==== Sys2Proof/Machine/Branches.lean ====
section
/-! DEFINITION. The relative branches (44_branches.md). -/
namespace Sys2Proof.Machine

/-- The branch is taken when the flag has the polarity's value (44_branches.md R180). -/
def branchTaken (f : BranchFlag) (polarity : Bool) (s : State) : Bool := flagOf f s.p == polarity

/-- `(pcn + d) mod 65536` with `pcn = a0 + 2`, "applied after the 2-byte instruction is fully consumed" (44_branches.md
R180). -/
def branchTarget (d : Int) (s : State) : Word := s.pc + 2 + BitVec.ofInt 16 d

/-- The common rule of the eight branches (44_branches.md R180); its penalty is `branchPenalty` of Machine/Cycles.lean. -/
def doBranch (f : BranchFlag) (polarity : Bool) (d : Int) (s : State) : Result :=
  .next { s with pc := if branchTaken f polarity s then branchTarget d s else s.pc + 2 }

/-- R181, 0x10 `BPL rel8`. -/
def execBpl (d : Int) (s : State) : Result := doBranch .negative false d s

/-- R182, 0x30 `BMI rel8`. -/
def execBmi (d : Int) (s : State) : Result := doBranch .negative true d s

/-- R183, 0x50 `BVC rel8`. -/
def execBvc (d : Int) (s : State) : Result := doBranch .overflow false d s

/-- R184, 0x70 `BVS rel8`. -/
def execBvs (d : Int) (s : State) : Result := doBranch .overflow true d s

/-- R185, 0x90 `BCC rel8`. -/
def execBcc (d : Int) (s : State) : Result := doBranch .carry false d s

/-- R186, 0xB0 `BCS rel8`. -/
def execBcs (d : Int) (s : State) : Result := doBranch .carry true d s

/-- R187, 0xD0 `BNE rel8`. -/
def execBne (d : Int) (s : State) : Result := doBranch .zero false d s

/-- R188, 0xF0 `BEQ rel8`. -/
def execBeq (d : Int) (s : State) : Result := doBranch .zero true d s

end Sys2Proof.Machine
end

