-- ==== Sys2Proof/Machine/Control.lean ====
section
/-! DEFINITION. The four fixed control opcodes (45_control.md). -/
namespace Sys2Proof.Machine

/-- R190, 0x00 `BRK`. -/
def execBrk (s : State) : Result :=
  (takeBreak (s.advance 1)).settle (Instr.opcode .brk) s.pc

/-- R191, 0x20 `JSR a16`: the address of the instruction's last byte is pushed, then the jump or the callout. A fault
of the push ends the instruction before the callout test. -/
def execJsr (w : Word) (s : State) : Result :=
  match push16 (s.pc + 2) (s.advance 3) with
  | .done _ t => jumpTo w (Instr.opcode (.jsr w)) s.pc t
  | .raised k t => .next (t.halt k (Instr.opcode (.jsr w)) s.pc)

/-- R192, 0x40 `RTI`. -/
def execRti (s : State) : Result :=
  (returnFromBreak (s.advance 1)).settle (Instr.opcode .rti) s.pc

/-- R193, 0x60 `RTS`. -/
def execRts (s : State) : Result :=
  (returnFromSubroutine (s.advance 1)).settle (Instr.opcode .rts) s.pc

end Sys2Proof.Machine
end

