-- ==== Sys2Proof/Machine/Group0.lean ====
section
/-! DEFINITION. Group cc=0 (46_group_cc0.md): BIT, JMP, STY, LDY, CPY, CPX. -/
namespace Sys2Proof.Machine

/-! ## The operations -/

/-- BIT (R201): Z, V and N; A and Carry are unchanged. -/
def doBit (src : Src) (s : State) : Result :=
  .next ({ s with p := bitFlags s.a (operandOf src s) s.p }.advance src.length)

/-- JMP (R202, R203): the target is resolved, then the jump or the callout with PC past the instruction. -/
def doJmp (j : Jump) (opcode : Byte) (s : State) : Result :=
  jumpTo (jumpTarget j s) opcode s.pc (s.advance 3)

/-- STY (R204). -/
def doSty (m : Addr) (s : State) : Result := .next ((s.write (effectiveAddress m s) s.y).advance m.length)

/-- LDY (R205). -/
def doLdy (src : Src) (s : State) : Result := .next ((s.setY (operandOf src s)).advance src.length)

/-- CPY (R206). -/
def doCpy (src : Src) (s : State) : Result :=
  .next ({ s with p := compareFlags s.y (operandOf src s) s.p }.advance src.length)

/-- CPX (R207). -/
def doCpx (src : Src) (s : State) : Result :=
  .next ({ s with p := compareFlags s.x (operandOf src s) s.p }.advance src.length)

/-! ## BIT -/

/-- R201, 0x24 `BIT d8`. -/
def execBitZp (d : Byte) (s : State) : Result := doBit (.mem (.zp d)) s

/-- R201, 0x2C `BIT a16`. -/
def execBitAbs (w : Word) (s : State) : Result := doBit (.mem (.abs w)) s

/-! ## JMP -/

/-- R202, 0x4C `JMP a16`. -/
def execJmpAbs (w : Word) (s : State) : Result := doJmp (.abs w) (Instr.opcode (.jmpAbs w)) s

/-- R203, 0x6C `JMP (a16)`. -/
def execJmpInd (w : Word) (s : State) : Result := doJmp (.ind w) (Instr.opcode (.jmpInd w)) s

/-! ## STY -/

/-- R204, 0x84 `STY d8`. -/
def execStyZp (d : Byte) (s : State) : Result := doSty (.zp d) s

/-- R204, 0x8C `STY a16`. -/
def execStyAbs (w : Word) (s : State) : Result := doSty (.abs w) s

/-- R204, 0x94 `STY d8,X`. -/
def execStyZpx (d : Byte) (s : State) : Result := doSty (.zpx d) s

/-! ## LDY -/

/-- R205, 0xA0 `LDY #d8`. -/
def execLdyImm (v : Byte) (s : State) : Result := doLdy (.imm v) s

/-- R205, 0xA4 `LDY d8`. -/
def execLdyZp (d : Byte) (s : State) : Result := doLdy (.mem (.zp d)) s

/-- R205, 0xAC `LDY a16`. -/
def execLdyAbs (w : Word) (s : State) : Result := doLdy (.mem (.abs w)) s

/-- R205, 0xB4 `LDY d8,X`. -/
def execLdyZpx (d : Byte) (s : State) : Result := doLdy (.mem (.zpx d)) s

/-- R205, 0xBC `LDY a16,X`. -/
def execLdyAbx (w : Word) (s : State) : Result := doLdy (.mem (.abx w)) s

/-! ## CPY -/

/-- R206, 0xC0 `CPY #d8`. -/
def execCpyImm (v : Byte) (s : State) : Result := doCpy (.imm v) s

/-- R206, 0xC4 `CPY d8`. -/
def execCpyZp (d : Byte) (s : State) : Result := doCpy (.mem (.zp d)) s

/-- R206, 0xCC `CPY a16`. -/
def execCpyAbs (w : Word) (s : State) : Result := doCpy (.mem (.abs w)) s

/-! ## CPX -/

/-- R207, 0xE0 `CPX #d8`. -/
def execCpxImm (v : Byte) (s : State) : Result := doCpx (.imm v) s

/-- R207, 0xE4 `CPX d8`. -/
def execCpxZp (d : Byte) (s : State) : Result := doCpx (.mem (.zp d)) s

/-- R207, 0xEC `CPX a16`. -/
def execCpxAbs (w : Word) (s : State) : Result := doCpx (.mem (.abs w)) s

end Sys2Proof.Machine
end

