-- ==== Sys2Proof/Machine/Group1.lean ====
section
/-! DEFINITION. Group cc=1 (47_group_cc1.md): ORA, AND, EOR, ADC, STA, LDA, CMP, SBC. -/
namespace Sys2Proof.Machine

/-! ## The operations -/

/-- ORA (R221). -/
def doOra (src : Src) (s : State) : Result := .next ((s.setA (s.a ||| operandOf src s)).advance src.length)

/-- AND (R222). -/
def doAnd (src : Src) (s : State) : Result := .next ((s.setA (s.a &&& operandOf src s)).advance src.length)

/-- EOR (R223). -/
def doEor (src : Src) (s : State) : Result := .next ((s.setA (s.a ^^^ operandOf src s)).advance src.length)

/-- ADC (R224). -/
def doAdc (src : Src) (s : State) : Result :=
  let m := operandOf src s
  .next ({ s with a := (adcResult s.p.d s.a m s.p.c).1, p := adcFlags s.a m s.p }.advance src.length)

/-- STA (R225). -/
def doSta (m : Addr) (s : State) : Result := .next ((s.write (effectiveAddress m s) s.a).advance m.length)

/-- LDA (R226). -/
def doLda (src : Src) (s : State) : Result := .next ((s.setA (operandOf src s)).advance src.length)

/-- CMP (R227). -/
def doCmp (src : Src) (s : State) : Result :=
  .next ({ s with p := compareFlags s.a (operandOf src s) s.p }.advance src.length)

/-- SBC (R228). -/
def doSbc (src : Src) (s : State) : Result :=
  let m := operandOf src s
  .next ({ s with a := (sbcResult s.p.d s.a m s.p.c).1, p := sbcFlags s.a m s.p }.advance src.length)

/-! ## ORA -/

/-- R221, 0x01 `ORA (d8,X)`. -/
def execOraIzx (d : Byte) (s : State) : Result := doOra (.mem (.izx d)) s

/-- R221, 0x05 `ORA d8`. -/
def execOraZp (d : Byte) (s : State) : Result := doOra (.mem (.zp d)) s

/-- R221, 0x09 `ORA #d8`. -/
def execOraImm (v : Byte) (s : State) : Result := doOra (.imm v) s

/-- R221, 0x0D `ORA a16`. -/
def execOraAbs (w : Word) (s : State) : Result := doOra (.mem (.abs w)) s

/-- R221, 0x11 `ORA (d8),Y`. -/
def execOraIzy (d : Byte) (s : State) : Result := doOra (.mem (.izy d)) s

/-- R221, 0x15 `ORA d8,X`. -/
def execOraZpx (d : Byte) (s : State) : Result := doOra (.mem (.zpx d)) s

/-- R221, 0x19 `ORA a16,Y`. -/
def execOraAby (w : Word) (s : State) : Result := doOra (.mem (.aby w)) s

/-- R221, 0x1D `ORA a16,X`. -/
def execOraAbx (w : Word) (s : State) : Result := doOra (.mem (.abx w)) s

/-! ## AND -/

/-- R222, 0x21 `AND (d8,X)`. -/
def execAndIzx (d : Byte) (s : State) : Result := doAnd (.mem (.izx d)) s

/-- R222, 0x25 `AND d8`. -/
def execAndZp (d : Byte) (s : State) : Result := doAnd (.mem (.zp d)) s

/-- R222, 0x29 `AND #d8`. -/
def execAndImm (v : Byte) (s : State) : Result := doAnd (.imm v) s

/-- R222, 0x2D `AND a16`. -/
def execAndAbs (w : Word) (s : State) : Result := doAnd (.mem (.abs w)) s

/-- R222, 0x31 `AND (d8),Y`. -/
def execAndIzy (d : Byte) (s : State) : Result := doAnd (.mem (.izy d)) s

/-- R222, 0x35 `AND d8,X`. -/
def execAndZpx (d : Byte) (s : State) : Result := doAnd (.mem (.zpx d)) s

/-- R222, 0x39 `AND a16,Y`. -/
def execAndAby (w : Word) (s : State) : Result := doAnd (.mem (.aby w)) s

/-- R222, 0x3D `AND a16,X`. -/
def execAndAbx (w : Word) (s : State) : Result := doAnd (.mem (.abx w)) s

/-! ## EOR -/

/-- R223, 0x41 `EOR (d8,X)`. -/
def execEorIzx (d : Byte) (s : State) : Result := doEor (.mem (.izx d)) s

/-- R223, 0x45 `EOR d8`. -/
def execEorZp (d : Byte) (s : State) : Result := doEor (.mem (.zp d)) s

/-- R223, 0x49 `EOR #d8`. -/
def execEorImm (v : Byte) (s : State) : Result := doEor (.imm v) s

/-- R223, 0x4D `EOR a16`. -/
def execEorAbs (w : Word) (s : State) : Result := doEor (.mem (.abs w)) s

/-- R223, 0x51 `EOR (d8),Y`. -/
def execEorIzy (d : Byte) (s : State) : Result := doEor (.mem (.izy d)) s

/-- R223, 0x55 `EOR d8,X`. -/
def execEorZpx (d : Byte) (s : State) : Result := doEor (.mem (.zpx d)) s

/-- R223, 0x59 `EOR a16,Y`. -/
def execEorAby (w : Word) (s : State) : Result := doEor (.mem (.aby w)) s

/-- R223, 0x5D `EOR a16,X`. -/
def execEorAbx (w : Word) (s : State) : Result := doEor (.mem (.abx w)) s

/-! ## ADC -/

/-- R224, 0x61 `ADC (d8,X)`. -/
def execAdcIzx (d : Byte) (s : State) : Result := doAdc (.mem (.izx d)) s

/-- R224, 0x65 `ADC d8`. -/
def execAdcZp (d : Byte) (s : State) : Result := doAdc (.mem (.zp d)) s

/-- R224, 0x69 `ADC #d8`. -/
def execAdcImm (v : Byte) (s : State) : Result := doAdc (.imm v) s

/-- R224, 0x6D `ADC a16`. -/
def execAdcAbs (w : Word) (s : State) : Result := doAdc (.mem (.abs w)) s

/-- R224, 0x71 `ADC (d8),Y`. -/
def execAdcIzy (d : Byte) (s : State) : Result := doAdc (.mem (.izy d)) s

/-- R224, 0x75 `ADC d8,X`. -/
def execAdcZpx (d : Byte) (s : State) : Result := doAdc (.mem (.zpx d)) s

/-- R224, 0x79 `ADC a16,Y`. -/
def execAdcAby (w : Word) (s : State) : Result := doAdc (.mem (.aby w)) s

/-- R224, 0x7D `ADC a16,X`. -/
def execAdcAbx (w : Word) (s : State) : Result := doAdc (.mem (.abx w)) s

/-! ## STA -/

/-- R225, 0x81 `STA (d8,X)`. -/
def execStaIzx (d : Byte) (s : State) : Result := doSta (.izx d) s

/-- R225, 0x85 `STA d8`. -/
def execStaZp (d : Byte) (s : State) : Result := doSta (.zp d) s

/-- R225, 0x8D `STA a16`. -/
def execStaAbs (w : Word) (s : State) : Result := doSta (.abs w) s

/-- R225, 0x91 `STA (d8),Y`. -/
def execStaIzy (d : Byte) (s : State) : Result := doSta (.izy d) s

/-- R225, 0x95 `STA d8,X`. -/
def execStaZpx (d : Byte) (s : State) : Result := doSta (.zpx d) s

/-- R225, 0x99 `STA a16,Y`. -/
def execStaAby (w : Word) (s : State) : Result := doSta (.aby w) s

/-- R225, 0x9D `STA a16,X`. -/
def execStaAbx (w : Word) (s : State) : Result := doSta (.abx w) s

/-! ## LDA -/

/-- R226, 0xA1 `LDA (d8,X)`. -/
def execLdaIzx (d : Byte) (s : State) : Result := doLda (.mem (.izx d)) s

/-- R226, 0xA5 `LDA d8`. -/
def execLdaZp (d : Byte) (s : State) : Result := doLda (.mem (.zp d)) s

/-- R226, 0xA9 `LDA #d8`. -/
def execLdaImm (v : Byte) (s : State) : Result := doLda (.imm v) s

/-- R226, 0xAD `LDA a16`. -/
def execLdaAbs (w : Word) (s : State) : Result := doLda (.mem (.abs w)) s

/-- R226, 0xB1 `LDA (d8),Y`. -/
def execLdaIzy (d : Byte) (s : State) : Result := doLda (.mem (.izy d)) s

/-- R226, 0xB5 `LDA d8,X`. -/
def execLdaZpx (d : Byte) (s : State) : Result := doLda (.mem (.zpx d)) s

/-- R226, 0xB9 `LDA a16,Y`. -/
def execLdaAby (w : Word) (s : State) : Result := doLda (.mem (.aby w)) s

/-- R226, 0xBD `LDA a16,X`. -/
def execLdaAbx (w : Word) (s : State) : Result := doLda (.mem (.abx w)) s

/-! ## CMP -/

/-- R227, 0xC1 `CMP (d8,X)`. -/
def execCmpIzx (d : Byte) (s : State) : Result := doCmp (.mem (.izx d)) s

/-- R227, 0xC5 `CMP d8`. -/
def execCmpZp (d : Byte) (s : State) : Result := doCmp (.mem (.zp d)) s

/-- R227, 0xC9 `CMP #d8`. -/
def execCmpImm (v : Byte) (s : State) : Result := doCmp (.imm v) s

/-- R227, 0xCD `CMP a16`. -/
def execCmpAbs (w : Word) (s : State) : Result := doCmp (.mem (.abs w)) s

/-- R227, 0xD1 `CMP (d8),Y`. -/
def execCmpIzy (d : Byte) (s : State) : Result := doCmp (.mem (.izy d)) s

/-- R227, 0xD5 `CMP d8,X`. -/
def execCmpZpx (d : Byte) (s : State) : Result := doCmp (.mem (.zpx d)) s

/-- R227, 0xD9 `CMP a16,Y`. -/
def execCmpAby (w : Word) (s : State) : Result := doCmp (.mem (.aby w)) s

/-- R227, 0xDD `CMP a16,X`. -/
def execCmpAbx (w : Word) (s : State) : Result := doCmp (.mem (.abx w)) s

/-! ## SBC -/

/-- R228, 0xE1 `SBC (d8,X)`. -/
def execSbcIzx (d : Byte) (s : State) : Result := doSbc (.mem (.izx d)) s

/-- R228, 0xE5 `SBC d8`. -/
def execSbcZp (d : Byte) (s : State) : Result := doSbc (.mem (.zp d)) s

/-- R228, 0xE9 `SBC #d8`. -/
def execSbcImm (v : Byte) (s : State) : Result := doSbc (.imm v) s

/-- R228, 0xED `SBC a16`. -/
def execSbcAbs (w : Word) (s : State) : Result := doSbc (.mem (.abs w)) s

/-- R228, 0xF1 `SBC (d8),Y`. -/
def execSbcIzy (d : Byte) (s : State) : Result := doSbc (.mem (.izy d)) s

/-- R228, 0xF5 `SBC d8,X`. -/
def execSbcZpx (d : Byte) (s : State) : Result := doSbc (.mem (.zpx d)) s

/-- R228, 0xF9 `SBC a16,Y`. -/
def execSbcAby (w : Word) (s : State) : Result := doSbc (.mem (.aby w)) s

/-- R228, 0xFD `SBC a16,X`. -/
def execSbcAbx (w : Word) (s : State) : Result := doSbc (.mem (.abx w)) s

end Sys2Proof.Machine
end

