-- ==== Sys2Proof/Machine/Group2.lean ====
section
/-! DEFINITION. Group cc=2 (48_group_cc2.md): ASL, ROL, LSR, ROR, STX, LDX, DEC, INC. -/
namespace Sys2Proof.Machine

/-! ## The operations -/

/-- The shifts and rotates: load, compute, store, set Carry, Z and N (R250 to R254). -/
def doShift (op : ShiftOp) (pl : Place) (s : State) : Result :=
  let v := loadPlace pl s
  .next ({ storePlace pl (shiftByte op v s.p.c) s with p := shiftFlags op v s.p }.advance pl.length)

/-- ASL (R251). -/
def doAsl (pl : Place) (s : State) : Result := doShift .asl pl s

/-- ROL (R252). -/
def doRol (pl : Place) (s : State) : Result := doShift .rol pl s

/-- LSR (R253). -/
def doLsr (pl : Place) (s : State) : Result := doShift .lsr pl s

/-- ROR (R254). -/
def doRor (pl : Place) (s : State) : Result := doShift .ror pl s

/-- STX (R255). -/
def doStx (m : Addr) (s : State) : Result := .next ((s.write (effectiveAddress m s) s.x).advance m.length)

/-- LDX (R256). -/
def doLdx (src : Src) (s : State) : Result := .next ((s.setX (operandOf src s)).advance src.length)

/-- A memory byte rewritten in place with Z and N of the new byte (R257, R258). -/
def rewriteByte (m : Addr) (r : Byte) (s : State) : Result :=
  .next ({ s.write (effectiveAddress m s) r with p := s.p.setZN r }.advance m.length)

/-- DEC (R257). -/
def doDec (m : Addr) (s : State) : Result := rewriteByte m (s.read (effectiveAddress m s) - 1) s

/-- INC (R258). -/
def doInc (m : Addr) (s : State) : Result := rewriteByte m (s.read (effectiveAddress m s) + 1) s

/-! ## ASL -/

/-- R251, 0x06 `ASL d8`. -/
def execAslZp (d : Byte) (s : State) : Result := doAsl (.mem (.zp d)) s

/-- R251, 0x0A `ASL A`. -/
def execAslAcc (s : State) : Result := doAsl .acc s

/-- R251, 0x0E `ASL a16`. -/
def execAslAbs (w : Word) (s : State) : Result := doAsl (.mem (.abs w)) s

/-- R251, 0x16 `ASL d8,X`. -/
def execAslZpx (d : Byte) (s : State) : Result := doAsl (.mem (.zpx d)) s

/-- R251, 0x1E `ASL a16,X`. -/
def execAslAbx (w : Word) (s : State) : Result := doAsl (.mem (.abx w)) s

/-! ## ROL -/

/-- R252, 0x26 `ROL d8`. -/
def execRolZp (d : Byte) (s : State) : Result := doRol (.mem (.zp d)) s

/-- R252, 0x2A `ROL A`. -/
def execRolAcc (s : State) : Result := doRol .acc s

/-- R252, 0x2E `ROL a16`. -/
def execRolAbs (w : Word) (s : State) : Result := doRol (.mem (.abs w)) s

/-- R252, 0x36 `ROL d8,X`. -/
def execRolZpx (d : Byte) (s : State) : Result := doRol (.mem (.zpx d)) s

/-- R252, 0x3E `ROL a16,X`. -/
def execRolAbx (w : Word) (s : State) : Result := doRol (.mem (.abx w)) s

/-! ## LSR -/

/-- R253, 0x46 `LSR d8`. -/
def execLsrZp (d : Byte) (s : State) : Result := doLsr (.mem (.zp d)) s

/-- R253, 0x4A `LSR A`. -/
def execLsrAcc (s : State) : Result := doLsr .acc s

/-- R253, 0x4E `LSR a16`. -/
def execLsrAbs (w : Word) (s : State) : Result := doLsr (.mem (.abs w)) s

/-- R253, 0x56 `LSR d8,X`. -/
def execLsrZpx (d : Byte) (s : State) : Result := doLsr (.mem (.zpx d)) s

/-- R253, 0x5E `LSR a16,X`. -/
def execLsrAbx (w : Word) (s : State) : Result := doLsr (.mem (.abx w)) s

/-! ## ROR -/

/-- R254, 0x66 `ROR d8`. -/
def execRorZp (d : Byte) (s : State) : Result := doRor (.mem (.zp d)) s

/-- R254, 0x6A `ROR A`. -/
def execRorAcc (s : State) : Result := doRor .acc s

/-- R254, 0x6E `ROR a16`. -/
def execRorAbs (w : Word) (s : State) : Result := doRor (.mem (.abs w)) s

/-- R254, 0x76 `ROR d8,X`. -/
def execRorZpx (d : Byte) (s : State) : Result := doRor (.mem (.zpx d)) s

/-- R254, 0x7E `ROR a16,X`. -/
def execRorAbx (w : Word) (s : State) : Result := doRor (.mem (.abx w)) s

/-! ## STX -/

/-- R255, 0x86 `STX d8`. -/
def execStxZp (d : Byte) (s : State) : Result := doStx (.zp d) s

/-- R255, 0x8E `STX a16`. -/
def execStxAbs (w : Word) (s : State) : Result := doStx (.abs w) s

/-- R255, 0x96 `STX d8,Y`. -/
def execStxZpy (d : Byte) (s : State) : Result := doStx (.zpy d) s

/-! ## LDX -/

/-- R256, 0xA2 `LDX #d8`. -/
def execLdxImm (v : Byte) (s : State) : Result := doLdx (.imm v) s

/-- R256, 0xA6 `LDX d8`. -/
def execLdxZp (d : Byte) (s : State) : Result := doLdx (.mem (.zp d)) s

/-- R256, 0xAE `LDX a16`. -/
def execLdxAbs (w : Word) (s : State) : Result := doLdx (.mem (.abs w)) s

/-- R256, 0xB6 `LDX d8,Y`. -/
def execLdxZpy (d : Byte) (s : State) : Result := doLdx (.mem (.zpy d)) s

/-- R256, 0xBE `LDX a16,Y`. -/
def execLdxAby (w : Word) (s : State) : Result := doLdx (.mem (.aby w)) s

/-! ## DEC -/

/-- R257, 0xC6 `DEC d8`. -/
def execDecZp (d : Byte) (s : State) : Result := doDec (.zp d) s

/-- R257, 0xCE `DEC a16`. -/
def execDecAbs (w : Word) (s : State) : Result := doDec (.abs w) s

/-- R257, 0xD6 `DEC d8,X`. -/
def execDecZpx (d : Byte) (s : State) : Result := doDec (.zpx d) s

/-- R257, 0xDE `DEC a16,X`. -/
def execDecAbx (w : Word) (s : State) : Result := doDec (.abx w) s

/-! ## INC -/

/-- R258, 0xE6 `INC d8`. -/
def execIncZp (d : Byte) (s : State) : Result := doInc (.zp d) s

/-- R258, 0xEE `INC a16`. -/
def execIncAbs (w : Word) (s : State) : Result := doInc (.abs w) s

/-- R258, 0xF6 `INC d8,X`. -/
def execIncZpx (d : Byte) (s : State) : Result := doInc (.zpx d) s

/-- R258, 0xFE `INC a16,X`. -/
def execIncAbx (w : Word) (s : State) : Result := doInc (.abx w) s

end Sys2Proof.Machine
end

