-- ==== Sys2Proof/Machine/Implied.lean ====
section
/-! DEFINITION. The implied instructions (43_implied.md): one meaning each. Every one leaves PC at `a0 + 1` (R150). -/
namespace Sys2Proof.Machine

/-! ## Stack -/

/-- R151, 0x08 `PHP`. -/
def execPhp (s : State) : Result :=
  (push8 (s.p.pack ||| 0x30) (s.advance 1)).settle (Instr.opcode .php) s.pc

/-- R153, 0x28 `PLP`. -/
def execPlp (s : State) : Result :=
  ((pop8 (s.advance 1)).andThen fun v s => .done () { s with p := Flags.unpack v }).settle (Instr.opcode .plp) s.pc

/-- R155, 0x48 `PHA`. -/
def execPha (s : State) : Result :=
  (push8 s.a (s.advance 1)).settle (Instr.opcode .pha) s.pc

/-- R157, 0x68 `PLA`. -/
def execPla (s : State) : Result :=
  ((pop8 (s.advance 1)).andThen fun v s => .done () (s.setA v)).settle (Instr.opcode .pla) s.pc

/-! ## Flag set and clear -/

/-- R152, 0x18 `CLC`. -/
def execClc (s : State) : Result := .next ({ s with p := { s.p with c := false } }.advance 1)

/-- R154, 0x38 `SEC`. -/
def execSec (s : State) : Result := .next ({ s with p := { s.p with c := true } }.advance 1)

/-- R156, 0x58 `CLI`. -/
def execCli (s : State) : Result := .next ({ s with p := { s.p with i := false } }.advance 1)

/-- R158, 0x78 `SEI`. -/
def execSei (s : State) : Result := .next ({ s with p := { s.p with i := true } }.advance 1)

/-- R162, 0xB8 `CLV`. -/
def execClv (s : State) : Result := .next ({ s with p := { s.p with v := false } }.advance 1)

/-- R164, 0xD8 `CLD`. -/
def execCld (s : State) : Result := .next ({ s with p := { s.p with d := false } }.advance 1)

/-- R166, 0xF8 `SED`. -/
def execSed (s : State) : Result := .next ({ s with p := { s.p with d := true } }.advance 1)

/-! ## Index increment and decrement -/

/-- R159, 0x88 `DEY`. -/
def execDey (s : State) : Result := .next ((s.setY (s.y - 1)).advance 1)

/-- R163, 0xC8 `INY`. -/
def execIny (s : State) : Result := .next ((s.setY (s.y + 1)).advance 1)

/-- R165, 0xE8 `INX`. -/
def execInx (s : State) : Result := .next ((s.setX (s.x + 1)).advance 1)

/-- R171, 0xCA `DEX`. -/
def execDex (s : State) : Result := .next ((s.setX (s.x - 1)).advance 1)

/-! ## Transfers -/

/-- R160, 0x98 `TYA`. -/
def execTya (s : State) : Result := .next ((s.setA s.y).advance 1)

/-- R161, 0xA8 `TAY`. -/
def execTay (s : State) : Result := .next ((s.setY s.a).advance 1)

/-- R167, 0x8A `TXA`. -/
def execTxa (s : State) : Result := .next ((s.setA s.x).advance 1)

/-- R169, 0xAA `TAX`. -/
def execTax (s : State) : Result := .next ((s.setX s.a).advance 1)

/-- R168, 0x9A `TXS`. -/
def execTxs (s : State) : Result := .next ({ s with sp := s.x }.advance 1)

/-- R170, 0xBA `TSX`. -/
def execTsx (s : State) : Result := .next ((s.setX s.sp).advance 1)

/-! ## No operation -/

/-- R172, 0xEA `NOP`. -/
def execNop (s : State) : Result := .next (s.advance 1)

end Sys2Proof.Machine
end

