-- ==== Sys2Proof/Machine/Dispatch.lean ====
section
/-! DEFINITION. One arm per constructor of Instr (40_step_and_run.md R103). `s` is the state at the opcode byte: its PC
is `a0`. -/
namespace Sys2Proof.Machine

def exec (i : Instr) (s : State) : Host.Outcome State Fault Refusal :=
  match i with
  -- 43_implied.md
  | .php => Sys2Proof.Machine.execPhp s
  | .plp => Sys2Proof.Machine.execPlp s
  | .pha => Sys2Proof.Machine.execPha s
  | .pla => Sys2Proof.Machine.execPla s
  | .clc => Sys2Proof.Machine.execClc s
  | .sec => Sys2Proof.Machine.execSec s
  | .cli => Sys2Proof.Machine.execCli s
  | .sei => Sys2Proof.Machine.execSei s
  | .clv => Sys2Proof.Machine.execClv s
  | .cld => Sys2Proof.Machine.execCld s
  | .sed => Sys2Proof.Machine.execSed s
  | .dey => Sys2Proof.Machine.execDey s
  | .iny => Sys2Proof.Machine.execIny s
  | .inx => Sys2Proof.Machine.execInx s
  | .dex => Sys2Proof.Machine.execDex s
  | .tya => Sys2Proof.Machine.execTya s
  | .tay => Sys2Proof.Machine.execTay s
  | .txa => Sys2Proof.Machine.execTxa s
  | .tax => Sys2Proof.Machine.execTax s
  | .txs => Sys2Proof.Machine.execTxs s
  | .tsx => Sys2Proof.Machine.execTsx s
  | .nop => Sys2Proof.Machine.execNop s
  -- 44_branches.md
  | .bpl d => Sys2Proof.Machine.execBpl d s
  | .bmi d => Sys2Proof.Machine.execBmi d s
  | .bvc d => Sys2Proof.Machine.execBvc d s
  | .bvs d => Sys2Proof.Machine.execBvs d s
  | .bcc d => Sys2Proof.Machine.execBcc d s
  | .bcs d => Sys2Proof.Machine.execBcs d s
  | .bne d => Sys2Proof.Machine.execBne d s
  | .beq d => Sys2Proof.Machine.execBeq d s
  -- 45_control.md
  | .brk => Sys2Proof.Machine.execBrk s
  | .jsr w => Sys2Proof.Machine.execJsr w s
  | .rti => Sys2Proof.Machine.execRti s
  | .rts => Sys2Proof.Machine.execRts s
  -- 46_group_cc0.md
  | .bitZp d => Sys2Proof.Machine.execBitZp d s
  | .bitAbs w => Sys2Proof.Machine.execBitAbs w s
  | .jmpAbs w => Sys2Proof.Machine.execJmpAbs w s
  | .jmpInd w => Sys2Proof.Machine.execJmpInd w s
  | .styZp d => Sys2Proof.Machine.execStyZp d s
  | .styAbs w => Sys2Proof.Machine.execStyAbs w s
  | .styZpx d => Sys2Proof.Machine.execStyZpx d s
  | .ldyImm v => Sys2Proof.Machine.execLdyImm v s
  | .ldyZp d => Sys2Proof.Machine.execLdyZp d s
  | .ldyAbs w => Sys2Proof.Machine.execLdyAbs w s
  | .ldyZpx d => Sys2Proof.Machine.execLdyZpx d s
  | .ldyAbx w => Sys2Proof.Machine.execLdyAbx w s
  | .cpyImm v => Sys2Proof.Machine.execCpyImm v s
  | .cpyZp d => Sys2Proof.Machine.execCpyZp d s
  | .cpyAbs w => Sys2Proof.Machine.execCpyAbs w s
  | .cpxImm v => Sys2Proof.Machine.execCpxImm v s
  | .cpxZp d => Sys2Proof.Machine.execCpxZp d s
  | .cpxAbs w => Sys2Proof.Machine.execCpxAbs w s
  -- 47_group_cc1.md
  | .oraIzx d => Sys2Proof.Machine.execOraIzx d s
  | .oraZp d => Sys2Proof.Machine.execOraZp d s
  | .oraImm v => Sys2Proof.Machine.execOraImm v s
  | .oraAbs w => Sys2Proof.Machine.execOraAbs w s
  | .oraIzy d => Sys2Proof.Machine.execOraIzy d s
  | .oraZpx d => Sys2Proof.Machine.execOraZpx d s
  | .oraAby w => Sys2Proof.Machine.execOraAby w s
  | .oraAbx w => Sys2Proof.Machine.execOraAbx w s
  | .andIzx d => Sys2Proof.Machine.execAndIzx d s
  | .andZp d => Sys2Proof.Machine.execAndZp d s
  | .andImm v => Sys2Proof.Machine.execAndImm v s
  | .andAbs w => Sys2Proof.Machine.execAndAbs w s
  | .andIzy d => Sys2Proof.Machine.execAndIzy d s
  | .andZpx d => Sys2Proof.Machine.execAndZpx d s
  | .andAby w => Sys2Proof.Machine.execAndAby w s
  | .andAbx w => Sys2Proof.Machine.execAndAbx w s
  | .eorIzx d => Sys2Proof.Machine.execEorIzx d s
  | .eorZp d => Sys2Proof.Machine.execEorZp d s
  | .eorImm v => Sys2Proof.Machine.execEorImm v s
  | .eorAbs w => Sys2Proof.Machine.execEorAbs w s
  | .eorIzy d => Sys2Proof.Machine.execEorIzy d s
  | .eorZpx d => Sys2Proof.Machine.execEorZpx d s
  | .eorAby w => Sys2Proof.Machine.execEorAby w s
  | .eorAbx w => Sys2Proof.Machine.execEorAbx w s
  | .adcIzx d => Sys2Proof.Machine.execAdcIzx d s
  | .adcZp d => Sys2Proof.Machine.execAdcZp d s
  | .adcImm v => Sys2Proof.Machine.execAdcImm v s
  | .adcAbs w => Sys2Proof.Machine.execAdcAbs w s
  | .adcIzy d => Sys2Proof.Machine.execAdcIzy d s
  | .adcZpx d => Sys2Proof.Machine.execAdcZpx d s
  | .adcAby w => Sys2Proof.Machine.execAdcAby w s
  | .adcAbx w => Sys2Proof.Machine.execAdcAbx w s
  | .staIzx d => Sys2Proof.Machine.execStaIzx d s
  | .staZp d => Sys2Proof.Machine.execStaZp d s
  | .staAbs w => Sys2Proof.Machine.execStaAbs w s
  | .staIzy d => Sys2Proof.Machine.execStaIzy d s
  | .staZpx d => Sys2Proof.Machine.execStaZpx d s
  | .staAby w => Sys2Proof.Machine.execStaAby w s
  | .staAbx w => Sys2Proof.Machine.execStaAbx w s
  | .ldaIzx d => Sys2Proof.Machine.execLdaIzx d s
  | .ldaZp d => Sys2Proof.Machine.execLdaZp d s
  | .ldaImm v => Sys2Proof.Machine.execLdaImm v s
  | .ldaAbs w => Sys2Proof.Machine.execLdaAbs w s
  | .ldaIzy d => Sys2Proof.Machine.execLdaIzy d s
  | .ldaZpx d => Sys2Proof.Machine.execLdaZpx d s
  | .ldaAby w => Sys2Proof.Machine.execLdaAby w s
  | .ldaAbx w => Sys2Proof.Machine.execLdaAbx w s
  | .cmpIzx d => Sys2Proof.Machine.execCmpIzx d s
  | .cmpZp d => Sys2Proof.Machine.execCmpZp d s
  | .cmpImm v => Sys2Proof.Machine.execCmpImm v s
  | .cmpAbs w => Sys2Proof.Machine.execCmpAbs w s
  | .cmpIzy d => Sys2Proof.Machine.execCmpIzy d s
  | .cmpZpx d => Sys2Proof.Machine.execCmpZpx d s
  | .cmpAby w => Sys2Proof.Machine.execCmpAby w s
  | .cmpAbx w => Sys2Proof.Machine.execCmpAbx w s
  | .sbcIzx d => Sys2Proof.Machine.execSbcIzx d s
  | .sbcZp d => Sys2Proof.Machine.execSbcZp d s
  | .sbcImm v => Sys2Proof.Machine.execSbcImm v s
  | .sbcAbs w => Sys2Proof.Machine.execSbcAbs w s
  | .sbcIzy d => Sys2Proof.Machine.execSbcIzy d s
  | .sbcZpx d => Sys2Proof.Machine.execSbcZpx d s
  | .sbcAby w => Sys2Proof.Machine.execSbcAby w s
  | .sbcAbx w => Sys2Proof.Machine.execSbcAbx w s
  -- 48_group_cc2.md
  | .aslZp d => Sys2Proof.Machine.execAslZp d s
  | .aslAcc => Sys2Proof.Machine.execAslAcc s
  | .aslAbs w => Sys2Proof.Machine.execAslAbs w s
  | .aslZpx d => Sys2Proof.Machine.execAslZpx d s
  | .aslAbx w => Sys2Proof.Machine.execAslAbx w s
  | .rolZp d => Sys2Proof.Machine.execRolZp d s
  | .rolAcc => Sys2Proof.Machine.execRolAcc s
  | .rolAbs w => Sys2Proof.Machine.execRolAbs w s
  | .rolZpx d => Sys2Proof.Machine.execRolZpx d s
  | .rolAbx w => Sys2Proof.Machine.execRolAbx w s
  | .lsrZp d => Sys2Proof.Machine.execLsrZp d s
  | .lsrAcc => Sys2Proof.Machine.execLsrAcc s
  | .lsrAbs w => Sys2Proof.Machine.execLsrAbs w s
  | .lsrZpx d => Sys2Proof.Machine.execLsrZpx d s
  | .lsrAbx w => Sys2Proof.Machine.execLsrAbx w s
  | .rorZp d => Sys2Proof.Machine.execRorZp d s
  | .rorAcc => Sys2Proof.Machine.execRorAcc s
  | .rorAbs w => Sys2Proof.Machine.execRorAbs w s
  | .rorZpx d => Sys2Proof.Machine.execRorZpx d s
  | .rorAbx w => Sys2Proof.Machine.execRorAbx w s
  | .stxZp d => Sys2Proof.Machine.execStxZp d s
  | .stxAbs w => Sys2Proof.Machine.execStxAbs w s
  | .stxZpy d => Sys2Proof.Machine.execStxZpy d s
  | .ldxImm v => Sys2Proof.Machine.execLdxImm v s
  | .ldxZp d => Sys2Proof.Machine.execLdxZp d s
  | .ldxAbs w => Sys2Proof.Machine.execLdxAbs w s
  | .ldxZpy d => Sys2Proof.Machine.execLdxZpy d s
  | .ldxAby w => Sys2Proof.Machine.execLdxAby w s
  | .decZp d => Sys2Proof.Machine.execDecZp d s
  | .decAbs w => Sys2Proof.Machine.execDecAbs w s
  | .decZpx d => Sys2Proof.Machine.execDecZpx d s
  | .decAbx w => Sys2Proof.Machine.execDecAbx w s
  | .incZp d => Sys2Proof.Machine.execIncZp d s
  | .incAbs w => Sys2Proof.Machine.execIncAbs w s
  | .incZpx d => Sys2Proof.Machine.execIncZpx d s
  | .incAbx w => Sys2Proof.Machine.execIncAbx w s

end Sys2Proof.Machine
end

