-- ==== Sys2Proof/Machine/Fetch.lean ====
section
/-! DEFINITION. The instruction bytes at PC, and placing an instruction there. -/
namespace Sys2Proof.Machine

/-- The instruction at PC: the opcode byte and the bytes after it, modulo 65536 (40_step_and_run.md R100 to R102);
`none` for an Illegal opcode. A read has no side effect (20_memory.md R51), so that the two bytes after a shorter
instruction are read too changes nothing (assumption 9). -/
def fetchDecode (s : State) : Option Instr := decodeOpcode (s.read s.pc) (s.read (s.pc + 1)) (s.read (s.pc + 2))

/-- The instruction with bits `w` stored where the next step fetches, and the core running, which a fetch needs. -/
def placeInstruction (s : State) (nbits w : Nat) : State :=
  { s.writeBytes s.pc (tableBytes nbits w) with halted := false, fault := none }

end Sys2Proof.Machine
end

