-- ==== Sys2Proof/Machine/Step.lean ====
section
/-! DEFINITION. One step (40_step_and_run.md R100), and where it finds its next instruction. -/
namespace Sys2Proof.Machine

/-- `step()`: a halted core does nothing (R105); an Illegal opcode is a DecodeFault (30_encoding.md R81); any other
runs its instruction. -/
def step (s : State) : Host.Outcome State Fault Refusal :=
  if s.halted then .next s
  else
    match fetchDecode s with
    | some i => exec i s
    | none => .next (decodeFault (s.read s.pc) s)

/-- `s` with the instruction whose bits are `w` stored at PC. -/
def State.withFetchWord (s : State) (nbits w : Nat) : State := placeInstruction s nbits w

end Sys2Proof.Machine
end

