-- ==== Sys2Proof/Machine/Core.lean ====
section
/-! DEFINITION. The machine behind the host's interface. 40_step_and_run.md R107 leaves the end of a run to the model:
over this core it is a number of steps (`Host.Core.run`) or a budget of cycles (`Sys2Proof.Machine.RunsTo`). DESIGN CHOICE,
assumption 19. -/

def Sys2Proof.core : Host.Core :=
  { State := Sys2Proof.Machine.State, Fault := Sys2Proof.Machine.Fault, Refusal := Sys2Proof.Machine.Refusal,
    step := Sys2Proof.Machine.step, reset := Sys2Proof.Machine.State.reset }
end

