-- ==== Sys2Proof/Machine/HostPort.lean ====
section
/-! DEFINITION. The host's transactions between instructions, "and no others" (00_scope.md R7), beside `step` and the run
loop: none of them is part of a step, and none changes a parameter but the registration of a handler. -/
namespace Sys2Proof.Machine

/-- `reset()` in any state (70_reset_and_hazards.md R340, R341, R343). PC is not written; the parameters survive; so does
the model's own handler count, so that no free value comes twice (DESIGN CHOICE, assumption 13). -/
def hostReset (s : State) : State :=
  { s with
    a := 0x00, x := 0x00, y := 0x00, sp := 0xFF
    p := { c := false, z := false, i := true, d := false, b := false, u := false, v := false, n := false }
    mem := [], halted := false, fault := none }

/-- Image load: "host writes an arbitrary byte range into Memory Bus" (00_scope.md R7, 70_reset_and_hazards.md R345). -/
def hostLoad (base : Word) (image : List Byte) (s : State) : State := s.writeBytes base image

/-- "then sets PC to the program's entry address" (00_scope.md R7). -/
def hostSetPc (entry : Word) (s : State) : State := { s with pc := entry }

/-- Handler registration (60_exceptions.md R310), one of the transactions of 00_scope.md R7. It changes no state of the
spec's; of that the host writes memory and PC only (20_memory.md R66). -/
def hostRegister (t : Word) (s : State) : State :=
  { s with cfg := { s.cfg with handlers := t :: s.cfg.handlers } }

/-- The status read: running, and on halt the descriptor (10_state.md R33). -/
def hostStatus (s : State) : Bool × Option FaultDescriptor := (!s.halted, if s.halted then s.fault else none)

end Sys2Proof.Machine
end

