-- ==== Sys2Proof/Machine/Cycles.lean ====
section
/-! DEFINITION. The cycle counter: base costs, which the configuration gives, and the branch penalty (70_reset_and_hazards.md R350 to R354). No
register, flag or memory result depends on it (R362); only where `run` stops does. -/
namespace Sys2Proof

/-- The configuration's entry for an opcode (70_reset_and_hazards.md R352). -/
def HostConfig.costEntry (c : HostConfig) (opcode : Byte) : Nat :=
  (c.baseCycles[opcode.toNat / 16]'(by omega))[opcode.toNat % 16]'(by omega)

/-- `BASE_CYCLES[opcode]` (70_reset_and_hazards.md R350): the entry of a legal opcode, whatever it is, and 0 for an
Illegal one (00_scope.md R4; "must keep the 105 zeros", 70_reset_and_hazards.md R352). Which opcodes are legal does not
depend on the operand bytes (30_encoding.md R74). -/
def HostConfig.baseCost (c : HostConfig) (opcode : Byte) : Nat :=
  if (decodeOpcode opcode 0 0).isSome then c.costEntry opcode else 0

end Sys2Proof

namespace Sys2Proof.Machine

/-- The penalty of a branch: none when not taken, 1 when taken, 1 more when the target's high byte differs from that of
`pcn` (70_reset_and_hazards.md R351). -/
def branchPenalty (f : BranchFlag) (polarity : Bool) (d : Int) (s : State) : Nat :=
  if branchTaken f polarity s then
    1 + (if hiByte (branchTarget d s) ≠ hiByte (s.pc + 2) then 1 else 0)
  else 0

/-- The penalty of an instruction: 0 but for a branch (70_reset_and_hazards.md R351, R354). -/
def penalty (i : Instr) (s : State) : Nat :=
  match i.form with
  | .branch f polarity d => branchPenalty f polarity d s
  | _ => 0

/-- `BASE_CYCLES[opcode] + penalty` (70_reset_and_hazards.md R350). -/
def instructionCost (i : Instr) (s : State) : Nat := s.cfg.baseCost i.opcode + penalty i s

/-- What `step()` returns: 0 for a halted core, a DecodeFault and a stack fault (70_reset_and_hazards.md R353), the
instruction's cost otherwise. A refused step has no cost that anything reads. -/
def stepCost (s : State) : Nat :=
  if s.halted then 0
  else
    match fetchDecode s with
    | none => 0
    | some i =>
      match step s with
      | .next t => if t.halted then 0 else instructionCost i s
      | .fault _ | .refused _ => 0

end Sys2Proof.Machine
end

