-- ==== Sys2Proof/Machine/Run.lean ====
section
/-! DEFINITION. The bounded run loop (40_step_and_run.md R110). -/
namespace Sys2Proof.Machine

/-- The loop of `run(budget)` for at most `n` iterations: while the budget is positive and the core is not halted, step and
deduct the cost; the budget is an integer of any sign (40_step_and_run.md R110). None: after `n` iterations the loop goes
on. A step without meaning ends it too. -/
def runWithin : (n : Nat) → (budget : Int) → State → Option Result
  | 0, budget, s => if budget ≤ 0 ∨ s.halted then some (.next s) else none
  | n + 1, budget, s =>
    if budget ≤ 0 ∨ s.halted then some (.next s)
    else
      match step s with
      | .next t => runWithin n (budget - stepCost s) t
      | .fault r => some (.fault r)
      | .refused r => some (.refused r)

/-- `run(budget)` from `s` ends in `r`. Where a legal opcode costs 0 it need not end: base costs of at least 1 are there
"so that `run` always ends" (70_reset_and_hazards.md R352). The spec leaves the end of a run to the model (R107): here it
is the budget's end or the halt (DESIGN CHOICE, assumption 19). -/
def RunsTo (budget : Int) (s : State) (r : Result) : Prop := ∃ n, runWithin n budget s = some r

end Sys2Proof.Machine
end

