-- ==== Sys2Proof/Safety.lean ====
section
/-! DEFINITION. The terms in which statements speak of states and runs: the invariant, a running core, and the sets of
instructions that the prose of the spec names. -/
namespace Sys2Proof.Machine

/-- What every state a run reaches has: memory in its canonical form (10_state.md R36), and a recorded fault exactly when
the core is halted (10_state.md R33, 60_exceptions.md R301). -/
abbrev State.Inv (s : State) : Prop := s.mem.wf = true ∧ s.halted = s.fault.isSome

/-- The core is running, "not halted" (00_scope.md R12). -/
abbrev State.Running (s : State) : Prop := s.halted = false

/-- The target of a jump is code, not a callout (60_exceptions.md R310). -/
abbrev State.IsCode (s : State) (t : Word) : Prop := t.toNat < s.cfg.calloutBase.val

/-- Every legal opcode costs at least `k`: 1 is what the spec asks of a host's own table "so that `run` always ends"
(70_reset_and_hazards.md R352), 2 is what 40_step_and_run.md R111 says of the spec's table. -/
def CostsAtLeast (k : Nat) (c : HostConfig) : Prop :=
  ∀ opcode : Byte, (decodeOpcode opcode 0 0).isSome → k ≤ c.baseCost opcode

/-- The instruction may end in the host's callout: JMP and JSR only (60_exceptions.md R313). -/
def mayCallOut : Form → Bool
  | .jsr _ | .jmp _ => true
  | .implied _ | .branch _ _ _ | .brk | .rti | .rts | .read _ _ | .store _ _ | .shift _ _ | .bump _ _ => false

end Sys2Proof.Machine
end

