-- ==== Sys2Proof/Certificates/Slice0/Obligations.lean ====
section
/-! DEFINITION. The statements for the provers. Helper notions first (namespace Sys2Proof.Stated), written from the
spec's tables in other terms than the model's own where that is possible; then one `def Obligations.<Name> : Prop` per
statement. An instruction is named through its form: `i.form = .read .lda src` holds of the eight constructors ldaImm,
ldaZp, ldaZpx, ldaAbs, ldaAbx, ldaAby, ldaIzx, ldaIzy and of no other. Every equation `exec i s = .next { s with ... }`
is also the instruction's frame: each field that the braces do not name is unchanged. -/
namespace Sys2Proof.Stated
open Sys2Proof.Machine

/-- Flags with Z and N taken from a byte: it is zero, it is at least 0x80 (10_state.md R30). -/
def zn (p : Flags) (v : Byte) : Flags := { p with z := decide (v.toNat = 0), n := decide (0x80 ≤ v.toNat) }

/-- The fault a step records, and the halt (60_exceptions.md R301). That a stack fault's descriptor has the opcode and the
address filled in is the spec's own decision D28 (10_state.md R33, assumption 18). -/
def halted (k : FaultKind) (opcode : Byte) (a0 : Word) (s : State) : State :=
  { s with halted := true, fault := some ⟨k, opcode, a0⟩ }

/-- PC past an instruction of `n` bytes. -/
def past (n : Nat) (s : State) : Word := s.pc + BitVec.ofNat 16 n

/-- The Illegal opcodes as 30_encoding.md R81 lists them: all with cc = 3, 18 with cc = 0, one with cc = 1, 22 with
cc = 2. -/
def illegal (op : Nat) : Bool :=
  op % 4 == 3
  || [0x04, 0x0C, 0x14, 0x1C, 0x34, 0x3C, 0x44, 0x54, 0x5C, 0x64, 0x74, 0x7C, 0x80, 0x9C, 0xD4, 0xDC, 0xF4,
      0xFC].contains op
  || op == 0x89
  || [0x02, 0x12, 0x1A, 0x22, 0x32, 0x3A, 0x42, 0x52, 0x5A, 0x62, 0x72, 0x7A, 0x82, 0x92, 0x9E, 0xB2, 0xC2, 0xD2,
      0xDA, 0xE2, 0xF2, 0xFA].contains op

/-- The flag that selector 0 to 3 names: "00=Negative,01=Overflow,10=Carry,11=Zero" (30_encoding.md R76). -/
def selected : Nat → Option BranchFlag
  | 0 => some .negative
  | 1 => some .overflow
  | 2 => some .carry
  | 3 => some .zero
  | _ => none

/-- The memory operand of an instruction that has one. -/
def memOperand : Form → Option Addr
  | .read _ (.mem m) | .store _ m | .shift _ (.mem m) | .bump _ m => some m
  | .read _ (.imm _) | .shift _ .acc | .implied _ | .branch _ _ _ | .brk | .jsr _ | .rti | .rts | .jmp _ => none

/-- The byte at an address, as a number. -/
def num (s : State) (a : Nat) : Nat := (s.mem.read a).toNat

/-- The register that a load or a transfer with Z and N writes, read in the state after it (10_state.md R30). -/
def loadedRegister (f : Form) (t : State) : Option Byte :=
  match f with
  | .read .lda _ | .implied .pla | .implied .txa | .implied .tya => some t.a
  | .read .ldx _ | .implied .tax | .implied .tsx => some t.x
  | .read .ldy _ | .implied .tay => some t.y
  | _ => none

/-- The instructions that write A (10_state.md R22). -/
def writesA : Form → Bool
  | .read .ora _ | .read .and _ | .read .eor _ | .read .adc _ | .read .sbc _ | .read .lda _ => true
  | .implied .pla | .implied .txa | .implied .tya | .shift _ .acc => true
  | _ => false

/-- The instructions that write X (10_state.md R22). -/
def writesX : Form → Bool
  | .read .ldx _ | .implied .inx | .implied .dex | .implied .tax | .implied .tsx => true
  | _ => false

/-- The instructions that write Y (10_state.md R22). -/
def writesY : Form → Bool
  | .read .ldy _ | .implied .iny | .implied .dey | .implied .tay => true
  | _ => false

/-- The instructions that write SP: those that push or pop, and TXS (10_state.md R23). -/
def writesSP : Form → Bool
  | .implied .php | .implied .plp | .implied .pha | .implied .pla | .implied .txs => true
  | .brk | .jsr _ | .rti | .rts => true
  | _ => false

/-- PLP and RTI write all eight flags (10_state.md R27). -/
def writesAllFlags : Form → Bool
  | .implied .plp | .rti => true
  | _ => false

/-- The other writers of Carry (10_state.md R27). -/
def writesC : Form → Bool
  | .implied .clc | .implied .sec | .shift _ _ => true
  | .read .adc _ | .read .sbc _ | .read .cmp _ | .read .cpx _ | .read .cpy _ => true
  | _ => false

/-- The other writers of Zero and Negative: the `SetZN` users and BIT (10_state.md R27). -/
def writesZN : Form → Bool
  | .read _ _ | .shift _ _ | .bump _ _ => true
  | .implied .pla | .implied .tax | .implied .tay | .implied .txa | .implied .tya | .implied .tsx => true
  | .implied .inx | .implied .iny | .implied .dex | .implied .dey => true
  | _ => false

/-- The other writers of InterruptDisable (10_state.md R27). -/
def writesI : Form → Bool
  | .implied .cli | .implied .sei => true
  | _ => false

/-- The other writers of Decimal (10_state.md R27). -/
def writesD : Form → Bool
  | .implied .cld | .implied .sed => true
  | _ => false

/-- The other writer of Break (10_state.md R27). -/
def writesB : Form → Bool
  | .brk => true
  | _ => false

/-- The other writers of Overflow (10_state.md R27). -/
def writesV : Form → Bool
  | .implied .clv | .read .adc _ | .read .sbc _ | .read .bit _ => true
  | _ => false

/-- How many bytes an instruction pushes when the stack has room. -/
def pushes : Form → Nat
  | .implied .php | .implied .pha => 1
  | .jsr _ => 2
  | .brk => 3
  | _ => 0

/-- The address an instruction's own store goes to. -/
def storesTo : Form → Option Addr
  | .store _ m | .shift _ (.mem m) | .bump _ m => some m
  | .read _ _ | .shift _ .acc | .implied _ | .branch _ _ _ | .brk | .jsr _ | .rti | .rts | .jmp _ => none

/-- The instructions that end past themselves whatever they do (10_state.md R40). -/
def fallsThrough : Form → Bool
  | .implied _ | .read _ _ | .store _ _ | .shift _ _ | .bump _ _ => true
  | .branch _ _ _ | .brk | .jsr _ | .rti | .rts | .jmp _ => false

/-- The base cost by kind of instruction and mode, the second table of 70_reset_and_hazards.md R352; 0 for a
combination the table does not have. -/
def costByKind : Form → Nat
  | .implied .php | .implied .pha => 3
  | .implied .plp | .implied .pla => 4
  | .implied _ => 2
  | .branch _ _ _ => 2
  | .brk => 7
  | .jsr _ | .rti | .rts => 6
  | .jmp (.abs _) => 3
  | .jmp (.ind _) => 5
  | .read _ (.imm _) => 2
  | .read _ (.mem (.zp _)) => 3
  | .read _ (.mem (.izx _)) => 6
  | .read _ (.mem (.izy _)) => 5
  | .read _ (.mem _) => 4
  | .store _ (.zp _) => 3
  | .store _ (.zpx _) | .store _ (.zpy _) | .store _ (.abs _) => 4
  | .store _ (.abx _) | .store _ (.aby _) => 5
  | .store _ (.izx _) | .store _ (.izy _) => 6
  | .shift _ .acc => 2
  | .shift _ (.mem (.zp _)) | .bump _ (.zp _) => 5
  | .shift _ (.mem (.zpx _)) | .shift _ (.mem (.abs _)) | .bump _ (.zpx _) | .bump _ (.abs _) => 6
  | .shift _ (.mem (.abx _)) | .bump _ (.abx _) => 7
  | .shift _ _ | .bump _ _ => 0

/-- The result and the Carry of a shift or rotate, in numbers (48_group_cc2.md R251 to R254). -/
def shiftNumbers (op : ShiftOp) (v : Nat) (c : Bool) : Nat × Bool :=
  match op with
  | .asl => (v * 2 % 256, decide (128 ≤ v))
  | .rol => (v * 2 % 256 + c.toNat, decide (128 ≤ v))
  | .lsr => (v / 2, decide (v % 2 = 1))
  | .ror => (v / 2 + 128 * c.toNat, decide (v % 2 = 1))

/-- The state after the two bytes of JSR's return address are pushed, PC past the instruction (45_control.md R191). -/
def afterJsrPush (s : State) : State :=
  { s with
    sp := s.sp - 2
    pc := s.pc + 3
    mem := (s.mem.write (0x100 + s.sp.toNat) (hiByte (s.pc + 2))).write (0xFF + s.sp.toNat) (loByte (s.pc + 2)) }

end Sys2Proof.Stated

open Sys2Proof Sys2Proof.Machine Sys2Proof.Stated

/-! ## Encoding -/

/-- One word of each family, written out from the tables of 30_encoding.md R76 to R82, decodes to its instruction. The
opcode map is the spec's "[from general knowledge, not in source]" (assumption 16). -/
def Obligations.SpecWordsDecode : Prop :=
  decode [0x48] = .instr .pha [] ∧
  decode [0xF0, 0xFE] = .instr (.beq (-2)) [] ∧
  decode [0x20, 0x00, 0x03] = .instr (.jsr 0x0300) [] ∧
  decode [0xBC, 0xF0, 0x02] = .instr (.ldyAbx 0x02F0) [] ∧
  decode [0x6C, 0xFF, 0x02] = .instr (.jmpInd 0x02FF) [] ∧
  decode [0xB1, 0x86, 0xEA] = .instr (.ldaIzy 0x86) [0xEA] ∧
  decode [0x0A] = .instr .aslAcc [] ∧
  decode [0x96, 0x10] = .instr (.stxZpy 0x10) []

/-- Decoding what the encoder writes gives the instruction back, every operand at every value, and leaves the bytes
after it. -/
def Obligations.DecodeUndoesEncode : Prop :=
  ∀ (i : Instr) (rest : List Byte), i.WellFormed → decode (encode i ++ rest) = .instr i rest

/-- What decodes is well formed, and encoding it gives the very bytes back: every byte string has one meaning. -/
def Obligations.EncodeUndoesDecode : Prop :=
  ∀ (i : Instr) (bytes rest : List Byte), decode bytes = .instr i rest → i.WellFormed ∧ encode i ++ rest = bytes

/-- The decoder rejects exactly the opcodes that 30_encoding.md R81 lists, 105 of 256, whatever bytes follow. Which
opcodes these are is the spec's "[from general knowledge, not in source]" (assumption 16). -/
def Obligations.IllegalOpcodesAreTheListed : Prop :=
  (∀ (op : Byte) (rest : List Byte),
    decode (op :: rest) = .rejected (.illegalOpcode op) ↔ illegal op.toNat = true) ∧
  ((List.range 256).filter illegal).length = 105

/-- An instruction is its opcode byte and zero, one or two operand bytes, and two instructions with one opcode have one
length (30_encoding.md R70). -/
def Obligations.OpcodeAloneGivesTheLength : Prop :=
  (∀ i : Instr, ∃ operands, encode i = i.opcode :: operands ∧ operands.length ≤ 2 ∧ i.length = operands.length + 1) ∧
  (∀ i j : Instr, i.opcode = j.opcode → i.length = j.length)

/-- The branches are the opcodes with low five bits 0b10000; bits 7..6 select the flag, bit 5 is the polarity, the byte
after the opcode is the signed displacement (30_encoding.md R76; for bpl bmi bvc bvs bcc bcs bne beq). -/
def Obligations.BranchOpcodesSelectFlagAndPolarity : Prop :=
  ∀ (op b1 b2 : Byte),
    (op.toNat % 32 = 0x10 → ∃ i f, decodeOpcode op b1 b2 = some i ∧ selected (op.toNat / 64) = some f ∧
      i.form = .branch f (decide (op.toNat / 32 % 2 = 1)) b1.toInt) ∧
    (∀ i f pol d, decodeOpcode op b1 b2 = some i → i.form = .branch f pol d → op.toNat % 32 = 0x10)

/-! ## The step -/

/-- When the bytes at PC decode to an instruction, it is well formed, a running core's step is `exec` of it at the same
state (40_step_and_run.md R100 to R104), and the step's cost is the configuration's base cost plus the penalty
(70_reset_and_hazards.md R350) unless the instruction faulted. That a faulting step costs 0 is the spec's own decision
D21 (R353, assumption 18). -/
def Obligations.StepRunsTheDecodedInstruction : Prop :=
  ∀ (s : State) (i : Instr) (rest : List Byte), s.Running →
    decode [s.read s.pc, s.read (s.pc + 1), s.read (s.pc + 2)] = .instr i rest →
    i.WellFormed ∧ step s = exec i s ∧
      ∀ t, exec i s = .next t → stepCost s = if t.halted then 0 else s.cfg.baseCost i.opcode + penalty i s

/-- An Illegal opcode at PC halts a running core: PC is past the opcode byte, the descriptor holds the opcode and its
own address, nothing else changes, and the step costs 0 (30_encoding.md R81, 60_exceptions.md R302). Which opcodes are
Illegal is the spec's "[from general knowledge, not in source]" (assumption 16); the PC, the descriptor's address and the
cost are the spec's own decisions D5, D26 and D21 (assumption 18). -/
def Obligations.IllegalOpcodeHaltsWithDecodeFault : Prop :=
  ∀ s : State, s.Running → illegal (s.read s.pc).toNat = true →
    step s = .next { s with pc := s.pc + 1, halted := true, fault := some ⟨.decodeFault, s.read s.pc, s.pc⟩ } ∧
    stepCost s = 0

/-- A step of a halted core does nothing and costs nothing, and so does a run of any budget (40_step_and_run.md R105, the
spec's own decision D22). -/
def Obligations.HaltedCoreDoesNothing : Prop :=
  ∀ (s : State) (budget : Int), s.halted = true → step s = .next s ∧ stepCost s = 0 ∧ RunsTo budget s (.next s)

/-! ## Operands -/

/-- The operand of the instruction at PC, from the bytes after the opcode: the immediate byte, the zero-page and
absolute addresses with their index and wrap, the displacement; with the instruction's length, no penalty for an
indexed address that crosses a page, and Zero page,Y for LDX and STX only (30_encoding.md R72, 41_addressing.md R122 to
R128, R132). For JSR and JMP the two bytes are the operand word, which JsrCallsOrFaults and JmpGoesToItsTarget say is the
target. That an indexed address has no penalty is the spec's own decision D20 (70_reset_and_hazards.md R354, assumption
18). -/
def Obligations.OperandsComeFromTheBytesAfterTheOpcode : Prop :=
  ∀ (s : State) (i : Instr), fetchDecode s = some i →
    let b1 := (s.read (s.pc + 1)).toNat
    let b2 := (s.read (s.pc + 2)).toNat
    (∀ op v, i.form = .read op (.imm v) → v.toNat = b1 ∧ operandOf (.imm v) s = v ∧ i.length = 2) ∧
    (∀ m, memOperand i.form = some m →
      let ea := (effectiveAddress m s).toNat
      penalty i s = 0 ∧
      (∀ d, m = .zp d → ea = b1 ∧ i.length = 2) ∧
      (∀ d, m = .zpx d → ea = (b1 + s.x.toNat) % 256 ∧ i.length = 2) ∧
      (∀ d, m = .zpy d → ea = (b1 + s.y.toNat) % 256 ∧ i.length = 2 ∧
        (i.form = .read .ldx (.mem m) ∨ i.form = .store .stx m)) ∧
      (∀ w, m = .abs w → ea = b1 + 256 * b2 ∧ i.length = 3) ∧
      (∀ w, m = .abx w → ea = (b1 + 256 * b2 + s.x.toNat) % 65536 ∧ i.length = 3) ∧
      (∀ w, m = .aby w → ea = (b1 + 256 * b2 + s.y.toNat) % 65536 ∧ i.length = 3)) ∧
    (∀ w, i.form = .jsr w ∨ i.form = .jmp (.abs w) → w.toNat = b1 + 256 * b2 ∧ i.length = 3) ∧
    (∀ f pol d, i.form = .branch f pol d → d = (if b1 < 128 then (b1 : Int) else b1 - 256) ∧ i.length = 2)

/-- The pointer modes: (Zero page,X) and (Zero page),Y dereference a little-endian word in the zero page, JMP (a16) one
at its operand; the high byte's address is the next one, or wraps where the parameter says so (41_addressing.md R129,
R130, R131, R134; both values of the two parameters, which are the spec's decisions D6 and D7). -/
def Obligations.PointersAreReadLittleEndian : Prop :=
  ∀ (s : State) (i : Instr), fetchDecode s = some i →
    let b1 := (s.read (s.pc + 1)).toNat
    let b2 := (s.read (s.pc + 2)).toNat
    let pointer := fun p : Nat => num s p + 256 * num s (if s.cfg.zpPointerWrap then (p + 1) % 256 else p + 1)
    (∀ m d, memOperand i.form = some m → m = .izx d →
      (effectiveAddress m s).toNat = pointer ((b1 + s.x.toNat) % 256) ∧ i.length = 2) ∧
    (∀ m d, memOperand i.form = some m → m = .izy d →
      (effectiveAddress m s).toNat = (pointer b1 + s.y.toNat) % 65536 ∧ i.length = 2) ∧
    (∀ w, i.form = .jmp (.ind w) →
      (jumpTarget (.ind w) s).toNat = num s (b1 + 256 * b2) + 256 * num s
        (if s.cfg.jmpIndirectPageWrap = true ∧ b1 = 0xFF then 256 * b2 else (b1 + 256 * b2 + 1) % 65536) ∧
      i.length = 3)

/-! ## Memory, the stack and the flag byte -/

/-- A byte written reads back, every other byte is as before, nothing but memory changes; a word read is the two byte
reads, low address first, the second address modulo 65536 (20_memory.md R52, R53). -/
def Obligations.MemoryTransactions : Prop :=
  ∀ (s : State) (a b : Word) (v : Byte), s.mem.wf = true →
    (s.write a v).read a = v ∧
    (b ≠ a → (s.write a v).read b = s.read b) ∧
    (∃ m, s.write a v = { s with mem := m }) ∧
    (s.read16 a).toNat = (s.mem.read a.toNat).toNat + 256 * (s.mem.read ((a.toNat + 1) % 65536)).toNat

/-- The four stack primitives: a push at SP = 0x00 and a pop at SP = 0xFF raise, which halts the instruction whatever it
would have done next, and change nothing; otherwise a push writes at 0x0100 + SP and then decrements, a pop increments
and then reads; words go high byte first (42_stack.md R141 to R144). That the descriptor of a stack fault holds the
opcode and the address is the spec's own decision D28 (10_state.md R33, 60_exceptions.md R300, assumption 18). -/
def Obligations.StackPrimitives : Prop :=
  ∀ (s : State) (v : Byte) (w : Word),
    (s.sp.toNat = 0 → push8 v s = .raised .stackOverflow s) ∧
    (1 ≤ s.sp.toNat →
      push8 v s = .done () { s with mem := s.mem.write (0x100 + s.sp.toNat) v, sp := s.sp - 1 }) ∧
    (s.sp.toNat = 255 → pop8 s = .raised .stackUnderflow s) ∧
    (s.sp.toNat ≤ 254 → pop8 s = .done (s.mem.read (0x101 + s.sp.toNat)) { s with sp := s.sp + 1 }) ∧
    (s.sp.toNat = 0 → push16 w s = .raised .stackOverflow s) ∧
    (s.sp.toNat = 1 →
      push16 w s = .raised .stackOverflow { s with mem := s.mem.write 0x101 (hiByte w), sp := 0x00 }) ∧
    (2 ≤ s.sp.toNat → push16 w s = .done () { s with
      mem := (s.mem.write (0x100 + s.sp.toNat) (hiByte w)).write (0xFF + s.sp.toNat) (loByte w), sp := s.sp - 2 }) ∧
    (s.sp.toNat = 255 → pop16 s = .raised .stackUnderflow s) ∧
    (s.sp.toNat = 254 → pop16 s = .raised .stackUnderflow { s with sp := 0xFF }) ∧
    (s.sp.toNat ≤ 253 → pop16 s =
      .done (wordOf (s.mem.read (0x101 + s.sp.toNat)) (s.mem.read (0x102 + s.sp.toNat))) { s with sp := s.sp + 2 }) ∧
    (s.sp.toNat = 0 → ∀ (next : Unit → State → Stacked Unit) (opcode : Byte) (a0 : Word),
      ((push8 v s).andThen next).settle opcode a0 = .next (halted .stackOverflow opcode a0 s)) ∧
    (s.sp.toNat = 255 → ∀ (next : Byte → State → Stacked Unit) (opcode : Byte) (a0 : Word),
      ((pop8 s).andThen next).settle opcode a0 = .next (halted .stackUnderflow opcode a0 s))

/-- A byte pushed and then popped comes back and SP is as before, for every SP from 0x01 on; at 0x00 the push faults; a
write to the same cell in between changes what the pop returns (42_stack.md R145). The same law for words (R144). -/
def Obligations.PushThenPopReturnsTheValue : Prop :=
  ∀ (s : State) (v : Byte) (w : Word), s.mem.wf = true →
    (1 ≤ s.sp.toNat → ∃ t u, push8 v s = .done () t ∧ pop8 t = .done v u ∧ u.sp = s.sp ∧
      ∀ x : Byte, ∃ u, pop8 (t.write (stackCell s.sp) x) = .done x u) ∧
    (s.sp.toNat = 0 → push8 v s = .raised .stackOverflow s) ∧
    (2 ≤ s.sp.toNat → ∃ t u, push16 w s = .done () t ∧ pop16 t = .done w u ∧ u.sp = s.sp)

/-- The flag byte has N V U B D I Z C in bits 7 to 0, and packing and unpacking undo each other (10_state.md R28, R29).
The positions and the loading of Break and Unused are the spec's decisions D2 and D9. -/
def Obligations.FlagByteRoundTrips : Prop :=
  (∀ p : Flags, p.pack.toNat = p.c.toNat + 2 * p.z.toNat + 4 * p.i.toNat + 8 * p.d.toNat + 16 * p.b.toNat +
    32 * p.u.toNat + 64 * p.v.toNat + 128 * p.n.toNat) ∧
  (∀ p : Flags, Flags.unpack p.pack = p) ∧
  (∀ v : Byte, (Flags.unpack v).pack = v)

/-- `SetZN`, and the source's property of every load and transfer that writes a register (lda, ldx and ldy in every
mode, pla, tax, tay, txa, tya, tsx): Zero is "the register is 0", Negative is its bit 7; TXS writes no flag
(10_state.md R30). -/
def Obligations.LoadsAndTransfersSetZeroAndNegative : Prop :=
  (∀ (p : Flags) (v : Byte), p.setZN v = zn p v) ∧
  (∀ (i : Instr) (s t : State) (r : Byte), s.Running → exec i s = .next t → t.Running →
    loadedRegister i.form t = some r → t.p = zn s.p r) ∧
  (∀ s t : State, exec .txs s = .next t → t.p = s.p)

/-! ## Implied instructions -/

/-- clc, sec, cli, sei, clv, cld, sed each write one flag, go to the next byte and change nothing else; their encodings
and costs (43_implied.md R152, R154, R156, R158, R162, R164, R166). The encodings are the spec's "[from general knowledge,
not in source]" (assumption 16); so is that the base cost is 2, under the spec's cost table (assumption 12). -/
def Obligations.FlagInstructionsWriteOneFlag : Prop :=
  ∀ s : State,
    exec .clc s = .next { s with p := { s.p with c := false }, pc := s.pc + 1 } ∧
    exec .sec s = .next { s with p := { s.p with c := true }, pc := s.pc + 1 } ∧
    exec .cli s = .next { s with p := { s.p with i := false }, pc := s.pc + 1 } ∧
    exec .sei s = .next { s with p := { s.p with i := true }, pc := s.pc + 1 } ∧
    exec .clv s = .next { s with p := { s.p with v := false }, pc := s.pc + 1 } ∧
    exec .cld s = .next { s with p := { s.p with d := false }, pc := s.pc + 1 } ∧
    exec .sed s = .next { s with p := { s.p with d := true }, pc := s.pc + 1 } ∧
    [.clc, .sec, .cli, .sei, .clv, .cld, .sed].map encode = [[0x18], [0x38], [0x58], [0x78], [0xB8], [0xD8], [0xF8]] ∧
    ∀ i ∈ [Instr.clc, .sec, .cli, .sei, .clv, .cld, .sed],
      instructionCost i s = s.cfg.baseCost i.opcode ∧ defaultConfig.baseCost i.opcode = 2

/-- dey, iny, inx, dex count modulo 256 and set Z and N; tya, tay, txa, tax, tsx copy and set Z and N; txs copies and
sets none; nop does nothing; their encodings and costs (43_implied.md R159 to R161, R163, R165, R167 to R172). The
encodings are the spec's "[from general knowledge, not in source]" (assumption 16); so is that the base cost is 2, under
the spec's cost table (assumption 12). -/
def Obligations.IndexTransferAndNopResults : Prop :=
  ∀ s : State,
    exec .dey s = .next { s with y := s.y - 1, p := zn s.p (s.y - 1), pc := s.pc + 1 } ∧
    exec .iny s = .next { s with y := s.y + 1, p := zn s.p (s.y + 1), pc := s.pc + 1 } ∧
    exec .inx s = .next { s with x := s.x + 1, p := zn s.p (s.x + 1), pc := s.pc + 1 } ∧
    exec .dex s = .next { s with x := s.x - 1, p := zn s.p (s.x - 1), pc := s.pc + 1 } ∧
    exec .tya s = .next { s with a := s.y, p := zn s.p s.y, pc := s.pc + 1 } ∧
    exec .tay s = .next { s with y := s.a, p := zn s.p s.a, pc := s.pc + 1 } ∧
    exec .txa s = .next { s with a := s.x, p := zn s.p s.x, pc := s.pc + 1 } ∧
    exec .tax s = .next { s with x := s.a, p := zn s.p s.a, pc := s.pc + 1 } ∧
    exec .tsx s = .next { s with x := s.sp, p := zn s.p s.sp, pc := s.pc + 1 } ∧
    exec .txs s = .next { s with sp := s.x, pc := s.pc + 1 } ∧
    exec .nop s = .next { s with pc := s.pc + 1 } ∧
    [.dey, .iny, .inx, .dex, .tya, .tay, .txa, .tax, .tsx, .txs, .nop].map encode =
      [[0x88], [0xC8], [0xE8], [0xCA], [0x98], [0xA8], [0x8A], [0xAA], [0xBA], [0x9A], [0xEA]] ∧
    ∀ i ∈ [Instr.dey, .iny, .inx, .dex, .tya, .tay, .txa, .tax, .tsx, .txs, .nop],
      instructionCost i s = s.cfg.baseCost i.opcode ∧ defaultConfig.baseCost i.opcode = 2

/-- pha and php complete whenever SP is not 0x00: the byte (A; the flag byte with bits 4 and 5 forced to 1) is written at
0x0100 + SP, SP goes down by one, no flag changes (43_implied.md R151, R155). -/
def Obligations.PushesStoreOneByte : Prop :=
  ∀ s : State, 1 ≤ s.sp.toNat →
    exec .pha s = .next
      { s with mem := s.mem.write (0x100 + s.sp.toNat) s.a, sp := s.sp - 1, pc := s.pc + 1 } ∧
    exec .php s = .next
      { s with mem := s.mem.write (0x100 + s.sp.toNat) (s.p.pack ||| 0x30), sp := s.sp - 1, pc := s.pc + 1 }

/-- pla and plp complete whenever SP is not 0xFF: the byte at 0x0101 + SP goes to A with Z and N, or to all eight flags
(43_implied.md R153, R157). That plp loads Break and Unused too is the spec's own decision D9 (assumption 18); the bit
each flag comes from is its decision D2, "[from general knowledge, not in source]" (assumption 16). -/
def Obligations.PullsLoadOneByte : Prop :=
  ∀ s : State, s.sp.toNat ≤ 254 →
    let v := s.mem.read (0x101 + s.sp.toNat)
    exec .pla s = .next { s with a := v, p := zn s.p v, sp := s.sp + 1, pc := s.pc + 1 } ∧
    exec .plp s = .next
      { s with p := { c := v[0], z := v[1], i := v[2], d := v[3], b := v[4], u := v[5], v := v[6], n := v[7] }
               sp := s.sp + 1, pc := s.pc + 1 }

/-- pha and php at SP = 0x00 and pla and plp at SP = 0xFF halt with the stack fault, PC past the opcode and nothing else
changed (60_exceptions.md R303, the spec's decision D16, assumption 15; the descriptor is its D28, assumption 18). -/
def Obligations.PushAndPullFaults : Prop :=
  ∀ s : State,
    (s.sp = 0x00 →
      exec .pha s = .next (halted .stackOverflow 0x48 s.pc { s with pc := s.pc + 1 }) ∧
      exec .php s = .next (halted .stackOverflow 0x08 s.pc { s with pc := s.pc + 1 })) ∧
    (s.sp = 0xFF →
      exec .pla s = .next (halted .stackUnderflow 0x68 s.pc { s with pc := s.pc + 1 }) ∧
      exec .plp s = .next (halted .stackUnderflow 0x28 s.pc { s with pc := s.pc + 1 }))

/-- php and then plp leave Break and Unused set and the other six flags and SP as they were (43_implied.md R153). That
plp loads Break and Unused is the spec's own decision D9 (assumption 18); that 0x30 is those two is its D2 (assumption
16). -/
def Obligations.PhpThenPlpSetsBreakAndUnused : Prop :=
  ∀ s : State, s.mem.wf = true → 1 ≤ s.sp.toNat →
    ∃ t u, exec .php s = .next t ∧ exec .plp t = .next u ∧
      u.p = { s.p with b := true, u := true } ∧ u.sp = s.sp

/-! ## Branches -/

/-- Every branch completes in every state: PC becomes `a0 + 2 + d` when the flag has the mnemonic's value and `a0 + 2`
otherwise, modulo 65536, and nothing else changes (44_branches.md R180 to R188; bpl bmi bvc bvs bcc bcs bne beq). -/
def Obligations.BranchTargets : Prop :=
  ∀ (s : State) (d : Int),
    let goes := fun taken : Bool =>
      { s with pc := BitVec.ofInt 16 ((s.pc.toNat : Int) + 2 + if taken then d else 0) }
    exec (.bpl d) s = .next (goes (!s.p.n)) ∧
    exec (.bmi d) s = .next (goes s.p.n) ∧
    exec (.bvc d) s = .next (goes (!s.p.v)) ∧
    exec (.bvs d) s = .next (goes s.p.v) ∧
    exec (.bcc d) s = .next (goes (!s.p.c)) ∧
    exec (.bcs d) s = .next (goes s.p.c) ∧
    exec (.bne d) s = .next (goes (!s.p.z)) ∧
    exec (.beq d) s = .next (goes s.p.z)

/-- "Branch cycle cost: not taken = base cost; taken, same page = base+1; taken, different page = base+2", the pages
being those of the target and of `a0 + 2`; no other instruction has a penalty (70_reset_and_hazards.md R351; for indexed
addresses the spec's own decision D20, assumption 18). "The base cost of every branch is 2" under the spec's cost table,
"[from general knowledge, not in source]" (R352, assumption 12). -/
def Obligations.BranchPenalties : Prop :=
  ∀ (i : Instr) (s : State),
    (∀ f pol d, i.form = .branch f pol d →
      let pcn := (s.pc.toNat + 2) % 65536
      let target := ((pcn : Int) + d) % 65536
      let base := s.cfg.baseCost i.opcode
      defaultConfig.baseCost i.opcode = 2 ∧
      (flagOf f s.p ≠ pol → instructionCost i s = base) ∧
      (flagOf f s.p = pol → target / 256 = (pcn / 256 : Int) → instructionCost i s = base + 1) ∧
      (flagOf f s.p = pol → target / 256 ≠ (pcn / 256 : Int) → instructionCost i s = base + 2)) ∧
    ((∀ f pol d, i.form ≠ .branch f pol d) → instructionCost i s = s.cfg.baseCost i.opcode)

/-! ## Control -/

/-- brk with SP at least 3 takes the trap: Break set, `a0 + 1` and then the flag byte with Break pushed, PC the word at
0xFFFE, nothing else changed (45_control.md R190, 60_exceptions.md R307; the pushed address, byte and the untouched
InterruptDisable are the spec's decision D10). -/
def Obligations.BrkTakesTheTrap : Prop :=
  ∀ s : State, 3 ≤ s.sp.toNat →
    let p : Flags := { s.p with b := true }
    exec .brk s = .next { s with
      p := p
      sp := s.sp - 3
      mem := ((s.mem.write (0x100 + s.sp.toNat) (hiByte (s.pc + 1))).write (0xFF + s.sp.toNat)
        (loByte (s.pc + 1))).write (0xFE + s.sp.toNat) p.pack
      pc := wordOf (s.mem.read 0xFFFE) (s.mem.read 0xFFFF) }

/-- brk at SP 0x00, 0x01 and 0x02 halts at its first, second and third push; what was pushed stays (60_exceptions.md
R303, the spec's decision D16, assumption 15; the address it pushes is its D10 and the descriptor its D28, assumption
18). -/
def Obligations.BrkFaultsPartWay : Prop :=
  ∀ s : State,
    let t : State := { s with pc := s.pc + 1, p := { s.p with b := true } }
    (s.sp = 0x00 → exec .brk s = .next (halted .stackOverflow 0x00 s.pc t)) ∧
    (s.sp = 0x01 → exec .brk s = .next (halted .stackOverflow 0x00 s.pc
      { t with mem := s.mem.write 0x101 (hiByte (s.pc + 1)), sp := 0x00 })) ∧
    (s.sp = 0x02 → exec .brk s = .next (halted .stackOverflow 0x00 s.pc
      { t with mem := (s.mem.write 0x102 (hiByte (s.pc + 1))).write 0x101 (loByte (s.pc + 1)), sp := 0x00 }))

/-- jsr with SP at least 2 and a target below CALLOUT_BASE pushes the address of its last byte and jumps; at SP 0x00 and
0x01 it halts at its first and second push with PC at `a0 + 3` (45_control.md R191, 60_exceptions.md R303; the fault
states are the spec's decision D16, assumption 15, their descriptor its D28, assumption 18). -/
def Obligations.JsrCallsOrFaults : Prop :=
  ∀ (s : State) (w : Word),
    (2 ≤ s.sp.toNat → s.IsCode w → exec (.jsr w) s = .next { afterJsrPush s with pc := w }) ∧
    (s.sp = 0x00 → exec (.jsr w) s = .next (halted .stackOverflow 0x20 s.pc { s with pc := s.pc + 3 })) ∧
    (s.sp = 0x01 → exec (.jsr w) s = .next (halted .stackOverflow 0x20 s.pc
      { s with pc := s.pc + 3, mem := s.mem.write 0x101 (hiByte (s.pc + 2)), sp := 0x00 }))

/-- rti with SP at most 0xFC loads all eight flags and then PC from the stack, unadjusted; at SP 0xFF, 0xFE and 0xFD it
halts at its first, second and third pop, in the last two with the flags already loaded (45_control.md R192,
60_exceptions.md R303). That rti loads Break and Unused too is the spec's own decision D9 (assumption 18), the bit each
flag comes from its D2 (assumption 16); the fault states are its D16, no rollback (assumption 15),
their descriptor its D28. -/
def Obligations.RtiReturnsOrFaults : Prop :=
  ∀ s : State,
    (s.sp.toNat ≤ 0xFC → exec .rti s = .next { s with
      p := Flags.unpack (s.mem.read (0x101 + s.sp.toNat))
      sp := s.sp + 3
      pc := wordOf (s.mem.read (0x102 + s.sp.toNat)) (s.mem.read (0x103 + s.sp.toNat)) }) ∧
    (s.sp = 0xFF → exec .rti s = .next (halted .stackUnderflow 0x40 s.pc { s with pc := s.pc + 1 })) ∧
    (s.sp = 0xFE → exec .rti s = .next (halted .stackUnderflow 0x40 s.pc
      { s with pc := s.pc + 1, p := Flags.unpack (s.mem.read 0x1FF), sp := 0xFF })) ∧
    (s.sp = 0xFD → exec .rti s = .next (halted .stackUnderflow 0x40 s.pc
      { s with pc := s.pc + 1, p := Flags.unpack (s.mem.read 0x1FE), sp := 0xFF }))

/-- rts with SP at most 0xFD pops a word and goes to the address after it, modulo 65536; at SP 0xFF and 0xFE it halts at
its first and second pop (45_control.md R193, 60_exceptions.md R303; the fault states are the spec's decision D16,
assumption 15, their descriptor its D28, assumption 18). -/
def Obligations.RtsReturnsOrFaults : Prop :=
  ∀ s : State,
    (s.sp.toNat ≤ 0xFD → exec .rts s = .next { s with
      sp := s.sp + 2
      pc := wordOf (s.mem.read (0x101 + s.sp.toNat)) (s.mem.read (0x102 + s.sp.toNat)) + 1 }) ∧
    (s.sp = 0xFF → exec .rts s = .next (halted .stackUnderflow 0x60 s.pc { s with pc := s.pc + 1 })) ∧
    (s.sp = 0xFE → exec .rts s = .next (halted .stackUnderflow 0x60 s.pc
      { s with pc := s.pc + 1, sp := 0xFF }))

/-- jmpAbs and jmpInd with a target below CALLOUT_BASE make it PC and change nothing else (46_group_cc0.md R202,
R203). -/
def Obligations.JmpGoesToItsTarget : Prop :=
  ∀ (s : State) (w : Word),
    (s.IsCode w → exec (.jmpAbs w) s = .next { s with pc := w }) ∧
    (s.IsCode (jumpTarget (.ind w) s) → exec (.jmpInd w) s = .next { s with pc := jumpTarget (.ind w) s })

/-- "JSR then RTS from the called address returns PC to exactly (JSR address + 3)", two bytes of stack a level; BRK then
RTI at the vector's target returns to `a0 + 1` with the flags as pushed, three bytes a level (45_control.md R194, which
the spec derives from R190 to R193). The address and the byte that brk pushes are the spec's own decision D10, and that
rti loads all eight flags, Break and Unused included, is its D9 (assumption 18). -/
def Obligations.CallsAndBreaksReturn : Prop :=
  ∀ (s : State) (w : Word), s.mem.wf = true →
    (2 ≤ s.sp.toNat → s.IsCode w → ∃ t u, exec (.jsr w) s = .next t ∧ t.pc = w ∧ t.sp = s.sp - 2 ∧
      exec .rts t = .next u ∧ u.pc = s.pc + 3 ∧ u.sp = s.sp) ∧
    (3 ≤ s.sp.toNat → ∃ t u, exec .brk s = .next t ∧ t.pc = s.read16 0xFFFE ∧ t.sp = s.sp - 3 ∧
      exec .rti t = .next u ∧ u.pc = s.pc + 1 ∧ u.sp = s.sp ∧ u.p = { s.p with b := true })

/-! ## The host callout -/

/-- jsr, jmpAbs and jmpInd to an address at or above CALLOUT_BASE: with a handler registered at exactly that address the
handler's effect runs, jsr having pushed its return address first, PC past the instruction; with none the step is
refused by name (60_exceptions.md R310, R311, R314; the JMP path is the spec's decision D23). That a handler's effect is
the free value `Config.handlerEffect` of the model's own handler count is the model's choice (assumption 5). -/
def Obligations.JumpsIntoTheCalloutRangeRunTheHandler : Prop :=
  ∀ (s : State) (w : Word),
    let u := { s with pc := s.pc + 3 }
    let t := jumpTarget (.ind w) s
    (2 ≤ s.sp.toNat → ¬ s.IsCode w →
      exec (.jsr w) s =
        if w ∈ s.cfg.handlers then
          calloutWith (Config.handlerEffect s.callouts w (afterJsrPush s).handlerView) 0x20 s.pc (afterJsrPush s)
        else .refused (.calloutUnhandled w)) ∧
    (¬ s.IsCode w →
      exec (.jmpAbs w) s =
        if w ∈ s.cfg.handlers then calloutWith (Config.handlerEffect s.callouts w s.handlerView) 0x4C s.pc u
        else .refused (.calloutUnhandled w)) ∧
    (¬ s.IsCode t →
      exec (.jmpInd w) s =
        if t ∈ s.cfg.handlers then calloutWith (Config.handlerEffect s.callouts t s.handlerView) 0x6C s.pc u
        else .refused (.calloutUnhandled t))

/-- Whatever a handler does to A, X, Y, SP, the flags and memory, the core then pops a word and resumes at the address
after it, or halts with StackUnderflow when the handler left SP at 0xFE or 0xFF; and a JSR whose handler leaves SP and
the two pushed bytes alone resumes at `a0 + 3` with SP as it was (60_exceptions.md R311, R303; the spec's decisions D16,
D23, D24, D28). The handler count is the model's own (assumption 5). -/
def Obligations.CalloutReturnsThroughTheStack : Prop :=
  (∀ (e : HandlerEffect) (op : Byte) (a0 : Word) (s : State),
    let m := Memory.writeAll s.mem e.writes
    let t : State := { s with a := e.a, x := e.x, y := e.y, p := e.p, mem := m, callouts := s.callouts + 1 }
    (e.sp.toNat ≤ 0xFD → calloutWith e op a0 s = .next { t with
      sp := e.sp + 2
      pc := wordOf (m.read (0x101 + e.sp.toNat)) (m.read (0x102 + e.sp.toNat)) + 1 }) ∧
    (0xFE ≤ e.sp.toNat → calloutWith e op a0 s = .next (halted .stackUnderflow op a0 { t with sp := 0xFF }))) ∧
  (∀ (e : HandlerEffect) (s : State), s.mem.wf = true → 2 ≤ s.sp.toNat → e.sp = s.sp - 2 →
    (∀ c ∈ e.writes, c.1.toNat ≠ 0x100 + s.sp.toNat ∧ c.1.toNat ≠ 0xFF + s.sp.toNat) →
    ∃ u, calloutWith e 0x20 s.pc (afterJsrPush s) = .next u ∧ u.pc = s.pc + 3 ∧ u.sp = s.sp)

/-! ## Reading instructions -/

/-- ora, and, eor in every mode: A becomes the bitwise result with Z and N of it, C and V untouched (47_group_cc1.md R221
to R223). -/
def Obligations.LogicOnTheAccumulator : Prop :=
  ∀ (i : Instr) (src : Src) (s : State),
    let m := operandOf src s
    let leaves := fun r : Byte => { s with a := r, p := zn s.p r, pc := past src.length s }
    (i.form = .read .ora src → exec i s = .next (leaves (s.a ||| m))) ∧
    (i.form = .read .and src → exec i s = .next (leaves (s.a &&& m))) ∧
    (i.form = .read .eor src → exec i s = .next (leaves (s.a ^^^ m)))

/-- lda, ldx, ldy in every mode: the register becomes the operand with Z and N of it (47_group_cc1.md R226,
48_group_cc2.md R256, 46_group_cc0.md R205). -/
def Obligations.LoadsCopyTheOperand : Prop :=
  ∀ (i : Instr) (src : Src) (s : State),
    let m := operandOf src s
    (i.form = .read .lda src → exec i s = .next { s with a := m, p := zn s.p m, pc := past src.length s }) ∧
    (i.form = .read .ldx src → exec i s = .next { s with x := m, p := zn s.p m, pc := past src.length s }) ∧
    (i.form = .read .ldy src → exec i s = .next { s with y := m, p := zn s.p m, pc := past src.length s })

/-- cmp, cpx, cpy in every mode: Carry is the unsigned comparison, Z and N are those of the difference modulo 256, no
register, no other flag and no memory changes (46_group_cc0.md R206 to R208, 47_group_cc1.md R227; the width of the
difference is the spec's decision D30). -/
def Obligations.ComparesSetCarryZeroNegative : Prop :=
  ∀ (i : Instr) (src : Src) (s : State),
    let m := operandOf src s
    let leaves := fun r : Byte =>
      { s with p := { zn s.p (BitVec.ofInt 8 ((r.toNat : Int) - m.toNat)) with c := decide (m.toNat ≤ r.toNat) }
               pc := past src.length s }
    (i.form = .read .cmp src → exec i s = .next (leaves s.a)) ∧
    (i.form = .read .cpx src → exec i s = .next (leaves s.x)) ∧
    (i.form = .read .cpy src → exec i s = .next (leaves s.y))

/-- bitZp, bitAbs: Z is "A AND operand is 0", V is the operand's bit 6, N is bit 7 of both A and the operand; A and Carry
are unchanged (46_group_cc0.md R201, the spec's decision D8). -/
def Obligations.BitTestsTheOperand : Prop :=
  ∀ (i : Instr) (src : Src) (s : State), i.form = .read .bit src →
    let m := operandOf src s
    exec i s = .next { s with
      p := { s.p with
        z := decide ((s.a &&& m).toNat = 0)
        v := decide (64 ≤ m.toNat % 128)
        n := decide (128 ≤ s.a.toNat) && decide (128 ≤ m.toNat) }
      pc := past src.length s }

/-- adc in every mode with Decimal clear: A is the sum modulo 256, Carry is "the sum is above 255", Overflow is signed
8-bit overflow, Z and N are those of A (47_group_cc1.md R224). -/
def Obligations.AdcAddsInBinary : Prop :=
  ∀ (i : Instr) (src : Src) (s : State), i.form = .read .adc src → s.p.d = false →
    let m := operandOf src s
    let sum := s.a.toNat + m.toNat + s.p.c.toNat
    let signed : Int := s.a.toInt + m.toInt + s.p.c.toNat
    let r : Byte := BitVec.ofNat 8 sum
    exec i s = .next { s with
      a := r
      p := { zn s.p r with c := decide (255 < sum), v := decide (signed < -128 ∨ 127 < signed) }
      pc := past src.length s }

/-- adc in every mode with Decimal set and both bytes valid digits: A is the digits of the decimal sum modulo 100, Carry
is "the decimal sum is above 99", and Z, N and V are those of the binary sum (47_group_cc1.md R224, R229; the spec's
decisions D11 and D12). -/
def Obligations.AdcAddsInDecimal : Prop :=
  ∀ (i : Instr) (src : Src) (s : State), i.form = .read .adc src → s.p.d = true →
    let m := operandOf src s
    bcdValid s.a = true → bcdValid m = true →
    let sum := bcdVal s.a + bcdVal m + s.p.c.toNat
    let signed : Int := s.a.toInt + m.toInt + s.p.c.toNat
    ∃ r : Byte, bcdValid r = true ∧ bcdVal r = sum % 100 ∧ exec i s = .next { s with
      a := r
      p := { zn s.p (BitVec.ofNat 8 (s.a.toNat + m.toNat + s.p.c.toNat)) with
        c := decide (99 < sum), v := decide (signed < -128 ∨ 127 < signed) }
      pc := past src.length s }

/-- sbc in every mode with Decimal clear: r is A - operand - borrow on unsigned values, A is r modulo 256, Carry is
"r is not negative", Overflow is "r is outside -128..127", Z and N are those of the byte stored (47_group_cc1.md R228;
Overflow on unsigned values is the spec's decision D13). -/
def Obligations.SbcSubtractsInBinary : Prop :=
  ∀ (i : Instr) (src : Src) (s : State), i.form = .read .sbc src → s.p.d = false →
    let m := operandOf src s
    let r : Int := (s.a.toNat : Int) - m.toNat - (1 - s.p.c.toNat)
    let b : Byte := s.a - m - (if s.p.c then 0 else 1)
    exec i s = .next { s with
      a := b
      p := { zn s.p b with c := decide (0 ≤ r), v := decide (r < -128 ∨ 127 < r) }
      pc := past src.length s }

/-- sbc in every mode with Decimal set and both bytes valid digits: A is the digits of the decimal difference modulo 100,
Carry is "not negative", Overflow "negative", Z and N those of the byte stored (47_group_cc1.md R228, R229; the spec's
decision D12). -/
def Obligations.SbcSubtractsInDecimal : Prop :=
  ∀ (i : Instr) (src : Src) (s : State), i.form = .read .sbc src → s.p.d = true →
    let m := operandOf src s
    bcdValid s.a = true → bcdValid m = true →
    let r : Int := (bcdVal s.a : Int) - bcdVal m - (1 - s.p.c.toNat)
    ∃ b : Byte, bcdValid b = true ∧ (bcdVal b : Int) = r % 100 ∧ exec i s = .next { s with
      a := b
      p := { zn s.p b with c := decide (0 ≤ r), v := decide (r < 0) }
      pc := past src.length s }

/-- adc and sbc in every mode with Decimal set and a digit above 9 complete, whatever the two free functions of R230
give: adc takes A and Carry from them and Z, N and V from the binary sum; sbc takes A, Carry and Overflow from them and
Z and N from that A (47_group_cc1.md R230; the spec's decision D14, assumption 7). -/
def Obligations.MalformedDecimalOperandsStillRun : Prop :=
  ∀ (i : Instr) (src : Src) (s : State), s.p.d = true →
    let m := operandOf src s
    (bcdValid s.a = false ∨ bcdValid m = false) →
    let signed : Int := s.a.toInt + m.toInt + s.p.c.toNat
    let add := Config.bcdAdcInvalid s.a m s.p.c
    let sub := Config.bcdSbcInvalid s.a m s.p.c
    (i.form = .read .adc src → exec i s = .next { s with
      a := add.1
      p := { zn s.p (BitVec.ofNat 8 (s.a.toNat + m.toNat + s.p.c.toNat)) with
        c := add.2, v := decide (signed < -128 ∨ 127 < signed) }
      pc := past src.length s }) ∧
    (i.form = .read .sbc src → exec i s = .next { s with
      a := sub.1, p := { zn s.p sub.1 with c := sub.2.1, v := sub.2.2 }, pc := past src.length s })

/-! ## Storing instructions -/

/-- sta, stx, sty in every mode: the register's byte goes to the effective address, no flag and no register changes
(47_group_cc1.md R225, 48_group_cc2.md R255, 46_group_cc0.md R204). -/
def Obligations.StoresWriteTheRegister : Prop :=
  ∀ (i : Instr) (m : Addr) (s : State),
    let leaves := fun v : Byte =>
      { s with mem := s.mem.write (effectiveAddress m s).toNat v, pc := past m.length s }
    (i.form = .store .sta m → exec i s = .next (leaves s.a)) ∧
    (i.form = .store .stx m → exec i s = .next (leaves s.x)) ∧
    (i.form = .store .sty m → exec i s = .next (leaves s.y))

/-- asl, rol, lsr, ror on A and on a memory byte in every mode: the operand is replaced by the shifted byte, Carry is the
bit shifted out, Z and N are those of the result (48_group_cc2.md R251 to R254; Z and N of rol, lsr, ror are the spec's
decision D15). -/
def Obligations.ShiftsReplaceTheirOperand : Prop :=
  ∀ (i : Instr) (op : ShiftOp) (s : State),
    (i.form = .shift op .acc →
      let r := shiftNumbers op s.a.toNat s.p.c
      exec i s = .next { s with
        a := BitVec.ofNat 8 r.1, p := { zn s.p (BitVec.ofNat 8 r.1) with c := r.2 }, pc := s.pc + 1 }) ∧
    (∀ m, i.form = .shift op (.mem m) →
      let a := (effectiveAddress m s).toNat
      let r := shiftNumbers op (s.mem.read a).toNat s.p.c
      exec i s = .next { s with
        mem := s.mem.write a (BitVec.ofNat 8 r.1), p := { zn s.p (BitVec.ofNat 8 r.1) with c := r.2 }
        pc := past m.length s })

/-- dec and inc in every mode: the memory byte counts down or up modulo 256, Z and N are those of the new byte, C and V
untouched (48_group_cc2.md R257, R258). -/
def Obligations.DecAndIncRewriteMemory : Prop :=
  ∀ (i : Instr) (m : Addr) (s : State),
    let a := (effectiveAddress m s).toNat
    let leaves := fun v : Byte => { s with mem := s.mem.write a v, p := zn s.p v, pc := past m.length s }
    (i.form = .bump .dec m → exec i s = .next (leaves (BitVec.ofNat 8 ((s.mem.read a).toNat + 255)))) ∧
    (i.form = .bump .inc m → exec i s = .next (leaves (BitVec.ofNat 8 ((s.mem.read a).toNat + 1))))

/-! ## Rules of the whole machine -/

/-- A running core halts only through the faults of 60_exceptions.md R300: StackOverflow from php, pha, brk, jsr and
StackUnderflow from plp, pla, rti, rts or a jump that ran a handler; the descriptor holds the instruction's opcode and
address (R300, R305; descriptor contents are the spec's decision D28). -/
def Obligations.OnlyTheListedInstructionsFault : Prop :=
  ∀ (i : Instr) (s t : State), s.Running → exec i s = .next t → t.halted = true →
    (t.fault = some ⟨.stackOverflow, i.opcode, s.pc⟩ ∧ 1 ≤ pushes i.form) ∨
    (t.fault = some ⟨.stackUnderflow, i.opcode, s.pc⟩ ∧
      (i = .plp ∨ i = .pla ∨ i = .rti ∨ i = .rts ∨ (mayCallOut i.form = true ∧ t.callouts = s.callouts + 1)))

/-- Unless a handler ran, A, X, Y and SP are written only by the instructions that 10_state.md R22 and R23 list, and
`halted` and `fault` change only together. -/
def Obligations.RegistersChangeOnlyWhereListed : Prop :=
  ∀ (i : Instr) (s t : State), exec i s = .next t → t.callouts = s.callouts →
    (writesA i.form = false → t.a = s.a) ∧ (writesX i.form = false → t.x = s.x) ∧
    (writesY i.form = false → t.y = s.y) ∧ (writesSP i.form = false → t.sp = s.sp) ∧
    (t.halted = s.halted ∧ t.fault = s.fault ∨ t.halted = true ∧ t.fault.isSome = true)

/-- Unless a handler ran, each flag is written only by the instructions that 10_state.md R27 lists. -/
def Obligations.FlagsChangeOnlyWhereListed : Prop :=
  ∀ (i : Instr) (s t : State), exec i s = .next t → t.callouts = s.callouts → writesAllFlags i.form = false →
    (writesC i.form = false → t.p.c = s.p.c) ∧ (writesZN i.form = false → t.p.z = s.p.z ∧ t.p.n = s.p.n) ∧
    (writesI i.form = false → t.p.i = s.p.i) ∧ (writesD i.form = false → t.p.d = s.p.d) ∧
    (writesB i.form = false → t.p.b = s.p.b) ∧ t.p.u = s.p.u ∧ (writesV i.form = false → t.p.v = s.p.v)

/-- Frame of the forms that store nothing and push nothing (every constructor but the stores, the memory forms of the
shifts, dec, inc, php, pha, brk and jsr), unless a handler ran: every byte of memory reads as before. -/
def Obligations.NonStoringFormsLeaveMemory : Prop :=
  ∀ (i : Instr) (s t : State) (a : Word), storesTo i.form = none → pushes i.form = 0 → exec i s = .next t →
    t.callouts = s.callouts → t.read a = s.read a

/-- Frame of the storing forms (sta, stx, sty, dec, inc and the memory forms of asl, rol, lsr, ror): every byte outside
the effective address reads as before. -/
def Obligations.StoringFormsWriteOneAddress : Prop :=
  ∀ (i : Instr) (m : Addr) (s t : State) (a : Word), storesTo i.form = some m → exec i s = .next t →
    a ≠ effectiveAddress m s → t.read a = s.read a

/-- Frame of the pushing forms (php, pha, brk, jsr), faulting or not, unless a handler ran: every byte outside the one,
two or three cells below and at 0x0100 + SP reads as before, and 0x0100 itself is never written (42_stack.md R141). -/
def Obligations.PushingFormsWriteOnlyTheirCells : Prop :=
  ∀ (i : Instr) (s t : State) (a : Word), exec i s = .next t → t.callouts = s.callouts → 1 ≤ pushes i.form →
    (∀ k, k < pushes i.form → k < s.sp.toNat → a.toNat ≠ 0x100 + s.sp.toNat - k) → t.read a = s.read a

/-- Every instruction but a branch, brk, jsr, rti, rts and jmp leaves PC at `a0 + length`, modulo 65536, even when it
faults (10_state.md R40, 60_exceptions.md R303). The PC after a stack fault is the spec's own decision D16, no rollback
(assumption 15). -/
def Obligations.OtherInstructionsGoPastThemselves : Prop :=
  ∀ (i : Instr) (s : State), fallsThrough i.form = true →
    ∃ t, exec i s = .next t ∧ t.pc.toNat = (s.pc.toNat + i.length) % 65536 ∧ (encode i).length = i.length

/-- Every instruction but jsr and jmp answers a next state from every state, running no handler; jsr and jmp are refused
only at a target in the callout range with no handler (60_exceptions.md R306, R313, R314). -/
def Obligations.OnlyUnhandledCalloutsAreRefused : Prop :=
  ∀ (i : Instr) (s : State),
    (mayCallOut i.form = false → ∃ t, exec i s = .next t ∧ t.callouts = s.callouts) ∧
    (∀ r, exec i s = .refused r →
      ∃ w, r = .calloutUnhandled w ∧ s.cfg.calloutBase.val ≤ w.toNat ∧ w ∉ s.cfg.handlers ∧
        mayCallOut i.form = true)

/-- Every step keeps the invariant: memory in canonical form, a fault recorded exactly when halted. -/
def Obligations.StepKeepsTheInvariant : Prop :=
  ∀ s t : State, s.Inv → step s = .next t → t.Inv

/-- The invariant holds after reset. -/
def Obligations.ResetHasTheInvariant : Prop := State.reset.Inv

/-- No step writes a parameter: "no instruction reads or writes them" (10_state.md R20); that the parameters stand in
State is the model's choice (assumption 4). -/
def Obligations.StepKeepsTheParameters : Prop :=
  ∀ s t : State, step s = .next t → t.cfg = s.cfg

/-! ## Reset and the run loop -/

/-- `reset()` from any state, halted or not: the listed values, all of memory zero, the halt ended, and twice the same as
once (70_reset_and_hazards.md R340). That PC is as before is the model's choice (assumption 13): R342 lets a model take
any value, and no proof may rest on it. That the parameters and the invariant are as said is the model's (assumptions 4
and 13). That the halt ends is the spec's own decision D18 (R341, assumption 18). -/
def Obligations.ResetLeavesTheListedValues : Prop :=
  ∀ s : State,
    let t := hostReset s
    t.a = 0x00 ∧ t.x = 0x00 ∧ t.y = 0x00 ∧ t.sp = 0xFF ∧ t.p.pack = 0x04 ∧
    (t.p.c = false ∧ t.p.z = false ∧ t.p.i = true ∧ t.p.d = false ∧ t.p.b = false ∧ t.p.u = false ∧ t.p.v = false ∧
      t.p.n = false) ∧
    (∀ a : Word, t.read a = 0x00) ∧ t.halted = false ∧ t.fault = none ∧ t.pc = s.pc ∧ t.cfg = s.cfg ∧
    hostReset t = t ∧ t.Inv

/-- The loop of `run`: with no budget left or halted it ends, otherwise it takes one step, deducts its cost and goes on,
under any base costs (40_step_and_run.md R110; a budget of any sign and size is the spec's decision D25, assumption
18). -/
def Obligations.RunIsTheBudgetLoop : Prop :=
  ∀ (budget : Int) (s : State) (r : Result),
    RunsTo budget s r ↔
      if budget ≤ 0 ∨ s.halted = true then r = .next s
      else
        match step s with
        | .next t => RunsTo (budget - stepCost s) t r
        | .fault f => r = .fault f
        | .refused f => r = .refused f

/-- Under any base costs `run(budget)` ends in one way at most, after exactly some number of `step()` calls: none for a
budget of 0 or less, at least one for a running core with a positive budget, and at most half the budget rounded up where
every legal opcode costs at least 2 (40_step_and_run.md R111, R112). Where every legal opcode costs at least 1 it ends
(70_reset_and_hazards.md R352). That the spec's own table meets both premises is its "[from general knowledge, not in
source]" (R352, assumption 12; BaseCyclesMatchTheKindTable), and no step changes the costs (StepKeepsTheParameters). -/
def Obligations.RunIsRepeatedStep : Prop :=
  ∀ (budget : Int) (s : State),
    (∀ r, RunsTo budget s r → ∃ n : Nat, r = Host.Core.run Sys2Proof.core n s ∧ (budget ≤ 0 → n = 0) ∧
      (0 < budget → s.Running → 1 ≤ n) ∧ (CostsAtLeast 2 s.cfg → (n : Int) ≤ max 0 ((budget + 1) / 2))) ∧
    (∀ r r', RunsTo budget s r → RunsTo budget s r' → r = r') ∧
    (CostsAtLeast 1 s.cfg → ∃ r, RunsTo budget s r)

/-- `BASE_CYCLES` under every configuration: 0 for an Illegal opcode, the configuration's entry for a legal one
(00_scope.md R4, 70_reset_and_hazards.md R352). At State.reset the entries are the spec's table, which gives every legal
opcode what its kind and mode give in the second table of R352, 2 to 7 (the values are the spec's "[from general
knowledge, not in source]", assumption 12). -/
def Obligations.BaseCyclesMatchTheKindTable : Prop :=
  State.reset.cfg.baseCycles = specBaseCycles ∧ CostsAtLeast 2 State.reset.cfg ∧
  ∀ (op b1 b2 : Byte),
    (decodeOpcode op b1 b2 = none → State.reset.cfg.costEntry op = 0 ∧ ∀ c : HostConfig, c.baseCost op = 0) ∧
    (∀ i, decodeOpcode op b1 b2 = some i →
      let cost := State.reset.cfg.baseCost op
      cost = costByKind i.form ∧ 2 ≤ cost ∧ cost ≤ 7 ∧ ∀ c : HostConfig, c.baseCost op = c.costEntry op)
end

