-- ==== Sys2Proof/Laws/State.lean ====
section
/-! SUPPORT. What each named update of State does to each field, one lemma per field and update, so that no later proof
unfolds an update. -/
namespace Sys2Proof.Machine

variable (s : State)

/-! ### write -/

@[simp] theorem State.write_a (w : Word) (v : Byte) : (s.write w v).a = s.a := rfl
@[simp] theorem State.write_x (w : Word) (v : Byte) : (s.write w v).x = s.x := rfl
@[simp] theorem State.write_y (w : Word) (v : Byte) : (s.write w v).y = s.y := rfl
@[simp] theorem State.write_sp (w : Word) (v : Byte) : (s.write w v).sp = s.sp := rfl
@[simp] theorem State.write_pc (w : Word) (v : Byte) : (s.write w v).pc = s.pc := rfl
@[simp] theorem State.write_p (w : Word) (v : Byte) : (s.write w v).p = s.p := rfl
@[simp] theorem State.write_mem (w : Word) (v : Byte) : (s.write w v).mem = s.mem.write w.toNat v := rfl
@[simp] theorem State.write_halted (w : Word) (v : Byte) : (s.write w v).halted = s.halted := rfl
@[simp] theorem State.write_fault (w : Word) (v : Byte) : (s.write w v).fault = s.fault := rfl
@[simp] theorem State.write_cfg (w : Word) (v : Byte) : (s.write w v).cfg = s.cfg := rfl
@[simp] theorem State.write_callouts (w : Word) (v : Byte) : (s.write w v).callouts = s.callouts := rfl

/-! ### advance -/

@[simp] theorem State.advance_a (n : Nat) : (s.advance n).a = s.a := rfl
@[simp] theorem State.advance_x (n : Nat) : (s.advance n).x = s.x := rfl
@[simp] theorem State.advance_y (n : Nat) : (s.advance n).y = s.y := rfl
@[simp] theorem State.advance_sp (n : Nat) : (s.advance n).sp = s.sp := rfl
@[simp] theorem State.advance_pc (n : Nat) : (s.advance n).pc = s.pc + BitVec.ofNat 16 n := rfl
@[simp] theorem State.advance_p (n : Nat) : (s.advance n).p = s.p := rfl
@[simp] theorem State.advance_mem (n : Nat) : (s.advance n).mem = s.mem := rfl
@[simp] theorem State.advance_halted (n : Nat) : (s.advance n).halted = s.halted := rfl
@[simp] theorem State.advance_fault (n : Nat) : (s.advance n).fault = s.fault := rfl
@[simp] theorem State.advance_cfg (n : Nat) : (s.advance n).cfg = s.cfg := rfl
@[simp] theorem State.advance_callouts (n : Nat) : (s.advance n).callouts = s.callouts := rfl

/-! ### setA -/

@[simp] theorem State.setA_a (v : Byte) : (s.setA v).a = v := rfl
@[simp] theorem State.setA_x (v : Byte) : (s.setA v).x = s.x := rfl
@[simp] theorem State.setA_y (v : Byte) : (s.setA v).y = s.y := rfl
@[simp] theorem State.setA_sp (v : Byte) : (s.setA v).sp = s.sp := rfl
@[simp] theorem State.setA_pc (v : Byte) : (s.setA v).pc = s.pc := rfl
@[simp] theorem State.setA_p (v : Byte) : (s.setA v).p = s.p.setZN v := rfl
@[simp] theorem State.setA_mem (v : Byte) : (s.setA v).mem = s.mem := rfl
@[simp] theorem State.setA_halted (v : Byte) : (s.setA v).halted = s.halted := rfl
@[simp] theorem State.setA_fault (v : Byte) : (s.setA v).fault = s.fault := rfl
@[simp] theorem State.setA_cfg (v : Byte) : (s.setA v).cfg = s.cfg := rfl
@[simp] theorem State.setA_callouts (v : Byte) : (s.setA v).callouts = s.callouts := rfl

/-! ### setX -/

@[simp] theorem State.setX_a (v : Byte) : (s.setX v).a = s.a := rfl
@[simp] theorem State.setX_x (v : Byte) : (s.setX v).x = v := rfl
@[simp] theorem State.setX_y (v : Byte) : (s.setX v).y = s.y := rfl
@[simp] theorem State.setX_sp (v : Byte) : (s.setX v).sp = s.sp := rfl
@[simp] theorem State.setX_pc (v : Byte) : (s.setX v).pc = s.pc := rfl
@[simp] theorem State.setX_p (v : Byte) : (s.setX v).p = s.p.setZN v := rfl
@[simp] theorem State.setX_mem (v : Byte) : (s.setX v).mem = s.mem := rfl
@[simp] theorem State.setX_halted (v : Byte) : (s.setX v).halted = s.halted := rfl
@[simp] theorem State.setX_fault (v : Byte) : (s.setX v).fault = s.fault := rfl
@[simp] theorem State.setX_cfg (v : Byte) : (s.setX v).cfg = s.cfg := rfl
@[simp] theorem State.setX_callouts (v : Byte) : (s.setX v).callouts = s.callouts := rfl

/-! ### setY -/

@[simp] theorem State.setY_a (v : Byte) : (s.setY v).a = s.a := rfl
@[simp] theorem State.setY_x (v : Byte) : (s.setY v).x = s.x := rfl
@[simp] theorem State.setY_y (v : Byte) : (s.setY v).y = v := rfl
@[simp] theorem State.setY_sp (v : Byte) : (s.setY v).sp = s.sp := rfl
@[simp] theorem State.setY_pc (v : Byte) : (s.setY v).pc = s.pc := rfl
@[simp] theorem State.setY_p (v : Byte) : (s.setY v).p = s.p.setZN v := rfl
@[simp] theorem State.setY_mem (v : Byte) : (s.setY v).mem = s.mem := rfl
@[simp] theorem State.setY_halted (v : Byte) : (s.setY v).halted = s.halted := rfl
@[simp] theorem State.setY_fault (v : Byte) : (s.setY v).fault = s.fault := rfl
@[simp] theorem State.setY_cfg (v : Byte) : (s.setY v).cfg = s.cfg := rfl
@[simp] theorem State.setY_callouts (v : Byte) : (s.setY v).callouts = s.callouts := rfl

/-! ### halt -/

@[simp] theorem State.halt_a (k : FaultKind) (op : Byte) (a0 : Word) : (s.halt k op a0).a = s.a := rfl
@[simp] theorem State.halt_x (k : FaultKind) (op : Byte) (a0 : Word) : (s.halt k op a0).x = s.x := rfl
@[simp] theorem State.halt_y (k : FaultKind) (op : Byte) (a0 : Word) : (s.halt k op a0).y = s.y := rfl
@[simp] theorem State.halt_sp (k : FaultKind) (op : Byte) (a0 : Word) : (s.halt k op a0).sp = s.sp := rfl
@[simp] theorem State.halt_pc (k : FaultKind) (op : Byte) (a0 : Word) : (s.halt k op a0).pc = s.pc := rfl
@[simp] theorem State.halt_p (k : FaultKind) (op : Byte) (a0 : Word) : (s.halt k op a0).p = s.p := rfl
@[simp] theorem State.halt_mem (k : FaultKind) (op : Byte) (a0 : Word) : (s.halt k op a0).mem = s.mem := rfl
@[simp] theorem State.halt_halted (k : FaultKind) (op : Byte) (a0 : Word) : (s.halt k op a0).halted = true := rfl
@[simp] theorem State.halt_fault (k : FaultKind) (op : Byte) (a0 : Word) : (s.halt k op a0).fault = some ⟨k, op, a0⟩ := rfl
@[simp] theorem State.halt_cfg (k : FaultKind) (op : Byte) (a0 : Word) : (s.halt k op a0).cfg = s.cfg := rfl
@[simp] theorem State.halt_callouts (k : FaultKind) (op : Byte) (a0 : Word) : (s.halt k op a0).callouts = s.callouts := rfl

/-! ### applyHandler -/

@[simp] theorem State.applyHandler_a (e : HandlerEffect) : (s.applyHandler e).a = e.a := rfl
@[simp] theorem State.applyHandler_x (e : HandlerEffect) : (s.applyHandler e).x = e.x := rfl
@[simp] theorem State.applyHandler_y (e : HandlerEffect) : (s.applyHandler e).y = e.y := rfl
@[simp] theorem State.applyHandler_sp (e : HandlerEffect) : (s.applyHandler e).sp = e.sp := rfl
@[simp] theorem State.applyHandler_pc (e : HandlerEffect) : (s.applyHandler e).pc = s.pc := rfl
@[simp] theorem State.applyHandler_p (e : HandlerEffect) : (s.applyHandler e).p = e.p := rfl
@[simp] theorem State.applyHandler_mem (e : HandlerEffect) : (s.applyHandler e).mem = Memory.writeAll s.mem e.writes := rfl
@[simp] theorem State.applyHandler_halted (e : HandlerEffect) : (s.applyHandler e).halted = s.halted := rfl
@[simp] theorem State.applyHandler_fault (e : HandlerEffect) : (s.applyHandler e).fault = s.fault := rfl
@[simp] theorem State.applyHandler_cfg (e : HandlerEffect) : (s.applyHandler e).cfg = s.cfg := rfl
@[simp] theorem State.applyHandler_callouts (e : HandlerEffect) : (s.applyHandler e).callouts = s.callouts + 1 := rfl

/-! ### setZN -/

variable (p : Flags)

@[simp] theorem setZN_c (v : Byte) : (p.setZN v).c = p.c := rfl
@[simp] theorem setZN_z (v : Byte) : (p.setZN v).z = decide (v = 0) := rfl
@[simp] theorem setZN_i (v : Byte) : (p.setZN v).i = p.i := rfl
@[simp] theorem setZN_d (v : Byte) : (p.setZN v).d = p.d := rfl
@[simp] theorem setZN_b (v : Byte) : (p.setZN v).b = p.b := rfl
@[simp] theorem setZN_u (v : Byte) : (p.setZN v).u = p.u := rfl
@[simp] theorem setZN_v (v : Byte) : (p.setZN v).v = p.v := rfl
@[simp] theorem setZN_n (v : Byte) : (p.setZN v).n = v[7] := rfl

/-! ### Reading after an update that leaves memory alone -/

@[simp] theorem State.read_advance (n : Nat) (w : Word) : (s.advance n).read w = s.read w := rfl
@[simp] theorem State.read_setA (v : Byte) (w : Word) : (s.setA v).read w = s.read w := rfl
@[simp] theorem State.read_setX (v : Byte) (w : Word) : (s.setX v).read w = s.read w := rfl
@[simp] theorem State.read_setY (v : Byte) (w : Word) : (s.setY v).read w = s.read w := rfl
@[simp] theorem State.read_halt (k : FaultKind) (op : Byte) (a0 w : Word) : (s.halt k op a0).read w = s.read w := rfl

end Sys2Proof.Machine
end

