-- ==== Sys2Proof/Laws/Memory.lean ====
section
/-! SUPPORT. Memory: a write keeps the canonical form, a read gives the last byte written, a write leaves every other
byte alone, and two canonical memories that read alike are equal. -/
namespace Sys2Proof

theorem Memory.wfFrom_cons {lo a : Nat} {v : Byte} {m : Memory} :
    Memory.wfFrom lo ((a, v) :: m) = true ↔
      lo ≤ a ∧ a < 65536 ∧ v ≠ Memory.unlisted ∧ Memory.wfFrom (a + 1) m = true := by
  simp [Memory.wfFrom, and_assoc]

theorem Memory.wfFrom_mono {lo lo' : Nat} (h : lo' ≤ lo) {m : Memory} (hm : m.wfFrom lo = true) :
    m.wfFrom lo' = true := by
  cases m with
  | nil => rfl
  | cons c m =>
    obtain ⟨a, v⟩ := c
    rw [Memory.wfFrom_cons] at hm ⊢
    exact ⟨Nat.le_trans h hm.1, hm.2⟩

/-- Below the bound of its canonical form a memory lists nothing. -/
theorem Memory.read_below {lo a : Nat} {m : Memory} (hm : m.wfFrom lo = true) (h : a < lo) :
    m.read a = Memory.unlisted := by
  induction m generalizing lo with
  | nil => rfl
  | cons c m ih =>
    obtain ⟨b, w⟩ := c
    rw [Memory.wfFrom_cons] at hm
    have hb : b ≠ a := by omega
    simp only [Memory.read, if_neg hb]
    exact ih hm.2.2.2 (by omega)

theorem Memory.wfFrom_write {lo a : Nat} {v : Byte} {m : Memory} (hm : m.wfFrom lo = true) (hlo : lo ≤ a)
    (ha : a < 65536) : (m.write a v).wfFrom lo = true := by
  induction m generalizing lo with
  | nil =>
    by_cases hv : v = Memory.unlisted
    · simp [Memory.write, hv, Memory.wfFrom]
    · simp [Memory.write, hv, Memory.wfFrom, hlo, ha]
  | cons c m ih =>
    obtain ⟨b, w⟩ := c
    have hm' := Memory.wfFrom_cons.1 hm
    obtain ⟨h1, h2, h3, h4⟩ := hm'
    unfold Memory.write
    split
    · split
      · exact hm
      · next hv => exact Memory.wfFrom_cons.2 ⟨hlo, ha, hv, Memory.wfFrom_cons.2 ⟨by omega, h2, h3, h4⟩⟩
    · split
      · split
        · exact Memory.wfFrom_mono (by omega) h4
        · next hab hv => exact Memory.wfFrom_cons.2 ⟨hlo, ha, hv, by subst hab; exact h4⟩
      · exact Memory.wfFrom_cons.2 ⟨h1, h2, h3, ih h4 (by omega)⟩

/-- A write keeps the canonical form. -/
theorem Memory.wf_write {m : Memory} (hm : m.wf = true) (w : Word) (v : Byte) : (m.write w.toNat v).wf = true :=
  Memory.wfFrom_write hm (Nat.zero_le _) w.isLt

theorem Memory.wf_writeAll {m : Memory} (hm : m.wf = true) (ws : List (Word × Byte)) :
    (Memory.writeAll m ws).wf = true := by
  induction ws generalizing m with
  | nil => exact hm
  | cons c ws ih => exact ih (Memory.wf_write hm c.1 c.2)

/-- A read after a write to the same address gives the byte written (20_memory.md R52). -/
theorem Memory.read_write_same {lo a : Nat} {v : Byte} {m : Memory} (hm : m.wfFrom lo = true) :
    (m.write a v).read a = v := by
  induction m generalizing lo with
  | nil =>
    by_cases hv : v = Memory.unlisted
    · simp [Memory.write, Memory.read, hv]
    · simp [Memory.write, Memory.read, hv]
  | cons c m ih =>
    obtain ⟨b, w⟩ := c
    have hm' := Memory.wfFrom_cons.1 hm
    unfold Memory.write
    split
    · next hab =>
      split
      · next hv =>
        have hb : b ≠ a := by omega
        simp only [Memory.read, if_neg hb, hv]
        exact Memory.read_below hm'.2.2.2 (by omega)
      · simp [Memory.read]
    · split
      · next hab =>
        split
        · next hv => rw [hv]; exact Memory.read_below hm'.2.2.2 (by omega)
        · simp [Memory.read]
      · next h1 h2 =>
        have hb : b ≠ a := fun h => h2 h.symm
        simp only [Memory.read, if_neg hb]
        exact ih hm'.2.2.2

/-- A write leaves every other byte alone (20_memory.md R52). -/
theorem Memory.read_write_other {a b : Nat} (hab : b ≠ a) {v : Byte} {m : Memory} :
    (m.write a v).read b = m.read b := by
  induction m with
  | nil =>
    by_cases hv : v = Memory.unlisted
    · simp [Memory.write, hv]
    · simp [Memory.write, Memory.read, hv, Ne.symm hab]
  | cons c m ih =>
    obtain ⟨d, w⟩ := c
    unfold Memory.write
    split
    · split
      · rfl
      · simp [Memory.read, Ne.symm hab]
    · split
      · next had =>
        have hd : d ≠ b := by omega
        split
        · simp [Memory.read, hd]
        · simp [Memory.read, hd, Ne.symm hab]
      · simp only [Memory.read, ih]

/-- Bytes written one after another leave every other byte alone. -/
theorem Memory.read_writeAll_other {m : Memory} {a : Nat} {ws : List (Word × Byte)}
    (h : ∀ c ∈ ws, c.1.toNat ≠ a) : (Memory.writeAll m ws).read a = m.read a := by
  induction ws generalizing m with
  | nil => rfl
  | cons c ws ih =>
    refine (ih fun d hd => h d (List.mem_cons_of_mem _ hd)).trans ?_
    exact Memory.read_write_other fun h' => h c List.mem_cons_self h'.symm

/-- Two canonical memories that read alike are the same list. -/
theorem Memory.ext_of_read {lo : Nat} {m n : Memory} (hm : m.wfFrom lo = true) (hn : n.wfFrom lo = true)
    (h : ∀ a, m.read a = n.read a) : m = n := by
  induction m generalizing lo n with
  | nil =>
    cases n with
    | nil => rfl
    | cons c n =>
      obtain ⟨b, w⟩ := c
      have hb := h b
      simp only [Memory.read, if_pos] at hb
      exact absurd hb.symm (Memory.wfFrom_cons.1 hn).2.2.1
  | cons c m ih =>
    obtain ⟨b, w⟩ := c
    have hm' := Memory.wfFrom_cons.1 hm
    cases n with
    | nil =>
      have hb := h b
      simp only [Memory.read, if_pos] at hb
      exact absurd hb hm'.2.2.1
    | cons e n =>
      obtain ⟨d, x⟩ := e
      have hn' := Memory.wfFrom_cons.1 hn
      have hbd : b = d := by
        rcases Nat.lt_trichotomy b d with hlt | heq | hgt
        · have hb := h b
          have hd : d ≠ b := by omega
          simp only [Memory.read, if_pos, if_neg hd] at hb
          exact absurd (hb.trans (Memory.read_below hn'.2.2.2 (by omega))) hm'.2.2.1
        · exact heq
        · have hd := h d
          have hb : b ≠ d := by omega
          simp only [Memory.read, if_pos, if_neg hb] at hd
          exact absurd (hd.symm.trans (Memory.read_below hm'.2.2.2 (by omega))) hn'.2.2.1
      subst hbd
      have hw : w = x := by simpa [Memory.read] using h b
      subst hw
      congr 1
      refine ih hm'.2.2.2 hn'.2.2.2 fun a => ?_
      by_cases hab : b = a
      · subst hab
        rw [Memory.read_below hm'.2.2.2 (Nat.lt_succ_self _), Memory.read_below hn'.2.2.2 (Nat.lt_succ_self _)]
      · simpa [Memory.read, hab] using h a

namespace Machine

theorem State.read_write_same {s : State} (hs : s.mem.wf = true) (w : Word) (v : Byte) : (s.write w v).read w = v :=
  Memory.read_write_same (lo := 0) hs

theorem State.read_write_other {s : State} {w b : Word} (h : b ≠ w) (v : Byte) : (s.write w v).read b = s.read b :=
  Memory.read_write_other fun hn => h (BitVec.eq_of_toNat_eq hn)

theorem State.wf_writeBytes {s : State} (hs : s.mem.wf = true) (w : Word) (bs : List Byte) :
    (s.writeBytes w bs).mem.wf = true := by
  induction bs generalizing s w with
  | nil => exact hs
  | cons v bs ih => exact ih (Memory.wf_write hs w v) (w + 1)

end Machine
end Sys2Proof
end

