-- ==== Sys2Proof/Laws/Exec.lean ====
section
/-! SUPPORT. `exec` regrouped: an instruction's meaning depends on its operation and operand alone, so that a proof over
the 151 instructions is a proof over the eleven shapes of `Form`. -/
namespace Sys2Proof.Machine

/-- The meanings of the implied instructions. -/
def execImplied (op : ImpliedOp) (s : State) : Result :=
  match op with
  | .php => execPhp s
  | .plp => execPlp s
  | .pha => execPha s
  | .pla => execPla s
  | .clc => execClc s
  | .sec => execSec s
  | .cli => execCli s
  | .sei => execSei s
  | .clv => execClv s
  | .cld => execCld s
  | .sed => execSed s
  | .dey => execDey s
  | .iny => execIny s
  | .inx => execInx s
  | .dex => execDex s
  | .tya => execTya s
  | .tay => execTay s
  | .txa => execTxa s
  | .tax => execTax s
  | .txs => execTxs s
  | .tsx => execTsx s
  | .nop => execNop s

/-- The meanings of the reading instructions. -/
def execRead (op : ReadOp) (src : Src) (s : State) : Result :=
  match op with
  | .ora => doOra src s
  | .and => doAnd src s
  | .eor => doEor src s
  | .adc => doAdc src s
  | .lda => doLda src s
  | .cmp => doCmp src s
  | .sbc => doSbc src s
  | .bit => doBit src s
  | .ldx => doLdx src s
  | .ldy => doLdy src s
  | .cpx => doCpx src s
  | .cpy => doCpy src s

/-- The register a store writes to memory. -/
def storedRegister (op : StoreOp) (s : State) : Byte :=
  match op with
  | .sta => s.a
  | .stx => s.x
  | .sty => s.y

/-- The byte DEC or INC makes of an old one. -/
def bumped (op : BumpOp) (v : Byte) : Byte :=
  match op with
  | .dec => v - 1
  | .inc => v + 1

/-- The meaning of a shape, given the opcode that a fault descriptor records. -/
def execForm (f : Form) (opcode : Byte) (s : State) : Result :=
  match f with
  | .implied op => execImplied op s
  | .branch fl pol d => doBranch fl pol d s
  | .brk => execBrk s
  | .jsr w => execJsr w s
  | .rti => execRti s
  | .rts => execRts s
  | .jmp j => doJmp j opcode s
  | .read op src => execRead op src s
  | .store op m => .next ((s.write (effectiveAddress m s) (storedRegister op s)).advance m.length)
  | .shift op pl => doShift op pl s
  | .bump op m => rewriteByte m (bumped op (s.read (effectiveAddress m s))) s

theorem exec_eq_execForm (i : Instr) (s : State) : exec i s = execForm i.form i.opcode s := by
  cases i <;> rfl

theorem exec_of_form {i : Instr} {f : Form} (h : i.form = f) (s : State) : exec i s = execForm f i.opcode s := by
  rw [exec_eq_execForm, h]

/-! What the meanings of a shape answer. -/

/-- A reading instruction writes A, X, Y or flags, and goes past itself. -/
theorem execRead_next (op : ReadOp) (src : Src) (s : State) :
    ∃ a x y p, execRead op src s = .next ({ s with a := a, x := x, y := y, p := p }.advance src.length) := by
  cases op <;> exact ⟨_, _, _, _, rfl⟩

/-- An implied instruction other than the four that use the stack writes registers and flags only. -/
theorem execImplied_next {op : ImpliedOp} (h : op ≠ .php ∧ op ≠ .plp ∧ op ≠ .pha ∧ op ≠ .pla) (s : State) :
    ∃ a x y sp p, execImplied op s = .next ({ s with a := a, x := x, y := y, sp := sp, p := p }.advance 1) := by
  obtain ⟨h1, h2, h3, h4⟩ := h
  cases op
  case php => exact absurd rfl h1
  case plp => exact absurd rfl h2
  case pha => exact absurd rfl h3
  case pla => exact absurd rfl h4
  all_goals exact ⟨_, _, _, _, _, rfl⟩

end Sys2Proof.Machine
end

