-- ==== Sys2Proof/Laws/Stack.lean ====
section
/-! SUPPORT. The stack primitives and what is built from them: one lemma each for when they complete and what they
leave, and for when they raise. -/
namespace Sys2Proof.Machine

@[simp] theorem andThen_done {α β : Type} (v : α) (s : State) (f : α → State → Stacked β) :
    (Stacked.done v s).andThen f = f v s := rfl
@[simp] theorem andThen_raised {α β : Type} (k : FaultKind) (s : State) (f : α → State → Stacked β) :
    (Stacked.raised k s : Stacked α).andThen f = .raised k s := rfl
@[simp] theorem settle_done (op : Byte) (a0 : Word) (s : State) : (Stacked.done () s).settle op a0 = .next s := rfl
@[simp] theorem settle_raised (op : Byte) (a0 : Word) (k : FaultKind) (s : State) :
    (Stacked.raised k s).settle op a0 = .next (s.halt k op a0) := rfl

theorem stackCell_toNat (sp : Byte) : (stackCell sp).toNat = 0x100 + sp.toNat := by
  have := sp.isLt
  simp [stackCell, zext16, Config.stackBase, BitVec.toNat_add]
  omega

theorem toNat_pred {sp : Byte} (h : sp ≠ 0) : (sp - 1).toNat = sp.toNat - 1 := by
  have h0 : sp.toNat ≠ 0 := fun hh => h (BitVec.eq_of_toNat_eq hh)
  have := sp.isLt
  have h1 : (1 : Byte).toNat = 1 := rfl
  rw [BitVec.toNat_sub, h1]
  omega

theorem toNat_succ {sp : Byte} (h : sp ≠ 0xFF) : (sp + 1).toNat = sp.toNat + 1 := by
  have h0 : sp.toNat ≠ 255 := fun hh => h (BitVec.eq_of_toNat_eq hh)
  have := sp.isLt
  have h1 : (1 : Byte).toNat = 1 := rfl
  rw [BitVec.toNat_add, h1]
  omega

theorem toNat_sub_two {sp : Byte} (h : 2 ≤ sp.toNat) : (sp - 2).toNat = sp.toNat - 2 := by
  have := sp.isLt
  have h1 : (2 : Byte).toNat = 2 := rfl
  rw [BitVec.toNat_sub, h1]
  omega

theorem ne_zero_of_one_le {sp : Byte} (h : 1 ≤ sp.toNat) : sp ≠ 0 := by rintro rfl; simp at h

theorem ne_top_of_le {sp : Byte} (h : sp.toNat ≤ 254) : sp ≠ 0xFF := by rintro rfl; simp at h

/-- The state a push leaves. -/
abbrev pushed (v : Byte) (s : State) : State :=
  { s with mem := s.mem.write (0x100 + s.sp.toNat) v, sp := s.sp - 1 }

theorem push8_done {s : State} (h : s.sp ≠ 0) (v : Byte) : push8 v s = .done () (pushed v s) := by
  have h' : ¬ s.sp = 0x00 := h
  simp only [push8, if_neg h', State.write, stackCell_toNat]

theorem push8_raised {s : State} (h : s.sp = 0) (v : Byte) : push8 v s = .raised .stackOverflow s := if_pos h

theorem pop8_done {s : State} (h : s.sp ≠ 0xFF) :
    pop8 s = .done (s.mem.read (0x101 + s.sp.toNat)) { s with sp := s.sp + 1 } := by
  have h' : ¬ s.sp = 0xFF := h
  have : 0x100 + (s.sp.toNat + 1) = 0x101 + s.sp.toNat := by omega
  simp only [pop8, if_neg h', State.read, stackCell_toNat, toNat_succ h, this]

theorem pop8_raised {s : State} (h : s.sp = 0xFF) : pop8 s = .raised .stackUnderflow s := if_pos h

theorem pred_ne_zero {sp : Byte} (h : 2 ≤ sp.toNat) : sp ≠ 0 ∧ sp - 1 ≠ 0 := by
  have h1 : sp ≠ 0 := by rintro rfl; simp at h
  refine ⟨h1, fun hh => ?_⟩
  have := toNat_pred h1
  rw [hh] at this
  simp at this
  omega

theorem succ_ne_top {sp : Byte} (h : sp.toNat ≤ 0xFD) : sp ≠ 0xFF ∧ sp + 1 ≠ 0xFF := by
  have h1 : sp ≠ 0xFF := by rintro rfl; simp at h
  refine ⟨h1, fun hh => ?_⟩
  have := toNat_succ h1
  rw [hh] at this
  simp at this
  omega

theorem push16_done {s : State} (h : 2 ≤ s.sp.toNat) (w : Word) :
    push16 w s = .done () { s with
      mem := (s.mem.write (0x100 + s.sp.toNat) (hiByte w)).write (0xFF + s.sp.toNat) (loByte w), sp := s.sp - 2 } := by
  obtain ⟨h1, h2⟩ := pred_ne_zero h
  have e : 0x100 + (s.sp.toNat - 1) = 0xFF + s.sp.toNat := by omega
  have e2 : s.sp - 1 - 1 = s.sp - 2 := by rw [BitVec.sub_sub]; rfl
  rw [push16, push8_done h1, andThen_done, push8_done (by exact h2)]
  simp only [pushed, toNat_pred h1, e, e2]

theorem push16_raised_second {s : State} (h : s.sp = 1) (w : Word) :
    push16 w s = .raised .stackOverflow { s with mem := s.mem.write 0x101 (hiByte w), sp := 0 } := by
  have h1 : s.sp ≠ 0 := by rw [h]; decide
  rw [push16, push8_done h1, andThen_done, push8_raised (by simp [h])]
  simp [pushed, h]

theorem push16_raised_first {s : State} (h : s.sp = 0) (w : Word) : push16 w s = .raised .stackOverflow s := by
  rw [push16, push8_raised h, andThen_raised]

theorem pop16_done {s : State} (h : s.sp.toNat ≤ 0xFD) :
    pop16 s = .done (wordOf (s.mem.read (0x101 + s.sp.toNat)) (s.mem.read (0x102 + s.sp.toNat)))
      { s with sp := s.sp + 2 } := by
  obtain ⟨h1, h2⟩ := succ_ne_top h
  have e : 0x101 + (s.sp.toNat + 1) = 0x102 + s.sp.toNat := by omega
  have e2 : s.sp + 1 + 1 = s.sp + 2 := by rw [BitVec.add_assoc]; rfl
  rw [pop16, pop8_done h1, andThen_done, pop8_done (by exact h2), andThen_done]
  simp only [toNat_succ h1, e, e2]

theorem pop16_raised_second {s : State} (h : s.sp = 0xFE) :
    pop16 s = .raised .stackUnderflow { s with sp := 0xFF } := by
  have h1 : s.sp ≠ 0xFF := by rw [h]; decide
  rw [pop16, pop8_done h1, andThen_done, pop8_raised (by simp [h]), andThen_raised]
  simp [h]

theorem pop16_raised_first {s : State} (h : s.sp = 0xFF) : pop16 s = .raised .stackUnderflow s := by
  rw [pop16, pop8_raised h, andThen_raised]

theorem returnFromSubroutine_done {s : State} (h : s.sp.toNat ≤ 0xFD) :
    returnFromSubroutine s = .done () { s with
      sp := s.sp + 2
      pc := wordOf (s.mem.read (0x101 + s.sp.toNat)) (s.mem.read (0x102 + s.sp.toNat)) + 1 } := by
  rw [returnFromSubroutine, pop16_done h, andThen_done]

theorem returnFromSubroutine_raised {s : State} (h : 0xFE ≤ s.sp.toNat) :
    returnFromSubroutine s = .raised .stackUnderflow { s with sp := 0xFF } := by
  have hlt := s.sp.isLt
  rcases (by omega : s.sp.toNat = 0xFE ∨ s.sp.toNat = 0xFF) with h1 | h1
  · rw [returnFromSubroutine, pop16_raised_second (BitVec.eq_of_toNat_eq h1), andThen_raised]
  · have h2 : s.sp = 0xFF := BitVec.eq_of_toNat_eq h1
    rw [returnFromSubroutine, pop16_raised_first h2, andThen_raised, ← h2]

/-- Where JMP and JSR end: at the target, in the host's handler, or refused. -/
theorem jumpTo_cases (t : Word) (op : Byte) (a0 : Word) (s : State) :
    (t.toNat < s.cfg.calloutBase.val ∧ jumpTo t op a0 s = .next { s with pc := t }) ∨
    (s.cfg.calloutBase.val ≤ t.toNat ∧ t ∈ s.cfg.handlers ∧
      jumpTo t op a0 s = calloutWith (Config.handlerEffect s.callouts t s.handlerView) op a0 s) ∨
    (s.cfg.calloutBase.val ≤ t.toNat ∧ t ∉ s.cfg.handlers ∧ jumpTo t op a0 s = .refused (.calloutUnhandled t)) := by
  by_cases h : s.cfg.calloutBase.val ≤ t.toNat
  · by_cases hm : t ∈ s.cfg.handlers
    · exact .inr (.inl ⟨h, hm, by simp [jumpTo, callout, h, hm]⟩)
    · exact .inr (.inr ⟨h, hm, by simp [jumpTo, callout, h, hm]⟩)
  · exact .inl ⟨by omega, by simp [jumpTo, h]⟩

theorem calloutWith_done {s : State} {e : HandlerEffect} (h : e.sp.toNat ≤ 0xFD) (op : Byte) (a0 : Word) :
    calloutWith e op a0 s = .next { s.applyHandler e with
      sp := e.sp + 2
      pc := wordOf ((Memory.writeAll s.mem e.writes).read (0x101 + e.sp.toNat))
        ((Memory.writeAll s.mem e.writes).read (0x102 + e.sp.toNat)) + 1 } := by
  rw [calloutWith, returnFromSubroutine_done (by exact h), settle_done]; rfl

theorem calloutWith_raised {s : State} {e : HandlerEffect} (h : 0xFE ≤ e.sp.toNat) (op : Byte) (a0 : Word) :
    calloutWith e op a0 s =
      .next ({ s.applyHandler e with sp := 0xFF }.halt .stackUnderflow op a0) := by
  rw [calloutWith, returnFromSubroutine_raised (by exact h), settle_raised]

end Sys2Proof.Machine
end

