-- ==== Sys2Proof/Laws/Frame.lean ====
section
/-! SUPPORT. What a step never touches: the parameters, `halted` and `fault` short of a raise, and the canonical form of
memory. Every named operation keeps them, so every meaning does. -/
namespace Sys2Proof.Machine

/-- The state that statements leave, whether they complete or raise. -/
def Stacked.state {α : Type} : Stacked α → State
  | .done _ s => s
  | .raised _ s => s

/-- From `s` to `t` the parameters, `halted` and `fault` are as before, and memory stays canonical. -/
structure Kept (s t : State) : Prop where
  cfg : t.cfg = s.cfg
  halted : t.halted = s.halted
  fault : t.fault = s.fault
  wf : s.mem.wf = true → t.mem.wf = true

/-- `Kept`, and no handler ran. -/
structure Quiet (s t : State) : Prop extends Kept s t where
  callouts : t.callouts = s.callouts

variable {s t u : State}

theorem Kept.trans (h : Kept s t) (g : Kept t u) : Kept s u :=
  ⟨g.cfg.trans h.cfg, g.halted.trans h.halted, g.fault.trans h.fault, fun x => g.wf (h.wf x)⟩

theorem Quiet.trans (h : Quiet s t) (g : Quiet t u) : Quiet s u :=
  ⟨h.toKept.trans g.toKept, g.callouts.trans h.callouts⟩

/-- Registers, flags and PC may change. -/
theorem quiet_registers (s : State) (a x y sp : Byte) (p : Flags) (pc : Word) :
    Quiet s { s with a := a, x := x, y := y, sp := sp, p := p, pc := pc } :=
  ⟨⟨rfl, rfl, rfl, id⟩, rfl⟩

/-- A byte of memory may change too. -/
theorem quiet_store (s : State) (a x y sp : Byte) (p : Flags) (pc w : Word) (v : Byte) :
    Quiet s { s with a := a, x := x, y := y, sp := sp, p := p, pc := pc, mem := s.mem.write w.toNat v } :=
  ⟨⟨rfl, rfl, rfl, fun h => Memory.wf_write h w v⟩, rfl⟩

theorem quiet_andThen {α β : Type} {r : Stacked α} {f : α → State → Stacked β} (h : Quiet s r.state)
    (g : ∀ v t, Quiet t (f v t).state) : Quiet s (r.andThen f).state := by
  cases r with
  | done v t => exact h.trans (g v t)
  | raised k t => exact h

theorem quiet_push8 (v : Byte) (s : State) : Quiet s (push8 v s).state := by
  unfold push8
  split
  · exact quiet_registers s ..
  · exact quiet_store s s.a s.x s.y (s.sp - 1) s.p s.pc (stackCell s.sp) v

theorem quiet_pop8 (s : State) : Quiet s (pop8 s).state := by
  unfold pop8
  split <;> exact quiet_registers s ..

theorem quiet_push16 (w : Word) (s : State) : Quiet s (push16 w s).state :=
  quiet_andThen (quiet_push8 _ _) fun _ t => quiet_push8 _ t

theorem quiet_pop16 (s : State) : Quiet s (pop16 s).state :=
  quiet_andThen (quiet_pop8 s) fun _ t => quiet_andThen (quiet_pop8 t) fun _ u => quiet_registers u ..

theorem quiet_returnFromSubroutine (s : State) : Quiet s (returnFromSubroutine s).state :=
  quiet_andThen (quiet_pop16 s) fun _ t => quiet_registers t ..

theorem quiet_returnFromBreak (s : State) : Quiet s (returnFromBreak s).state :=
  quiet_andThen (quiet_pop8 s) fun v t =>
    quiet_andThen ((quiet_registers t t.a t.x t.y t.sp (Flags.unpack v) t.pc).trans (quiet_pop16 _)) fun _ u =>
      quiet_registers u ..

theorem quiet_takeBreak (s : State) : Quiet s (takeBreak s).state :=
  quiet_andThen ((quiet_registers s s.a s.x s.y s.sp { s.p with b := true } s.pc).trans (quiet_push16 _ _)) fun _ t =>
    quiet_andThen (quiet_push8 _ t) fun _ u => quiet_registers u ..

/-- An implied instruction is a chain of quiet statements, settled. -/
theorem execImplied_settles (op : ImpliedOp) (s : State) :
    ∃ (r : Stacked Unit) (opcode : Byte), Quiet s r.state ∧ execImplied op s = r.settle opcode s.pc := by
  have past : Quiet s (s.advance 1) := quiet_registers s ..
  cases op
  case php | pha => exact ⟨_, _, past.trans (quiet_push8 _ _), rfl⟩
  case plp | pla =>
    exact ⟨_, _, past.trans (quiet_andThen (quiet_pop8 _) fun _ t => quiet_registers t ..), rfl⟩
  all_goals exact ⟨.done () _, 0, quiet_registers s .., rfl⟩

/-- What a meaning's next state is: one that keeps all the above, a handler having run at most once and for a jump only,
or such a state with a fault raised on top. -/
def Leaves (jump : Bool) (s t : State) : Prop :=
  ∃ u, Kept s u ∧ (u.callouts = s.callouts ∨ (jump = true ∧ u.callouts = s.callouts + 1)) ∧
    (t = u ∨ ∃ k opcode, t = u.halt k opcode s.pc)

theorem Quiet.leaves {jump : Bool} (h : Quiet s t) : Leaves jump s t := ⟨t, h.toKept, .inl h.callouts, .inl rfl⟩

theorem settle_next {r : Stacked Unit} {opcode : Byte} {a0 : Word} (h : r.settle opcode a0 = .next t) :
    t = r.state ∨ ∃ k, r = .raised k r.state ∧ t = r.state.halt k opcode a0 := by
  cases r with
  | done v u => cases h; exact .inl rfl
  | raised k u => cases h; exact .inr ⟨k, rfl, rfl⟩

theorem settle_leaves {r : Stacked Unit} {opcode : Byte} {jump : Bool} (hr : Quiet s r.state)
    (h : r.settle opcode s.pc = .next t) : Leaves jump s t := by
  obtain ht | ⟨k, -, ht⟩ := settle_next h
  · exact ⟨_, hr.toKept, .inl hr.callouts, .inl ht⟩
  · exact ⟨_, hr.toKept, .inl hr.callouts, .inr ⟨k, _, ht⟩⟩

theorem jumpTo_leaves {w : Word} {opcode : Byte} (hu : Quiet s u) (h : jumpTo w opcode s.pc u = .next t) :
    Leaves true s t := by
  obtain ⟨-, e⟩ | ⟨-, -, e⟩ | ⟨-, -, e⟩ := jumpTo_cases w opcode s.pc u
  · rw [e] at h
    cases h
    exact (hu.trans (quiet_registers u ..)).leaves
  · rw [e, calloutWith] at h
    generalize Config.handlerEffect u.callouts w u.handlerView = eff at h
    have h1 : Kept u (u.applyHandler eff) := ⟨rfl, rfl, rfl, fun hm => Memory.wf_writeAll hm _⟩
    have h2 := quiet_returnFromSubroutine (u.applyHandler eff)
    have hk := (hu.toKept.trans h1).trans h2.toKept
    have hc : (returnFromSubroutine (u.applyHandler eff)).state.callouts = s.callouts + 1 := by
      rw [h2.callouts, State.applyHandler_callouts, hu.callouts]
    obtain ht | ⟨k, -, ht⟩ := settle_next h
    · exact ⟨_, hk, .inr ⟨rfl, hc⟩, .inl ht⟩
    · exact ⟨_, hk, .inr ⟨rfl, hc⟩, .inr ⟨k, _, ht⟩⟩
  · rw [e] at h
    cases h

/-- Every instruction's next state. -/
theorem execForm_leaves {f : Form} {opcode : Byte} (h : execForm f opcode s = .next t) :
    Leaves (mayCallOut f) s t := by
  have past : ∀ n, Quiet s (s.advance n) := fun n => quiet_registers s ..
  cases f with
  | implied op =>
    obtain ⟨r, oc, hr, e⟩ := execImplied_settles op s
    exact settle_leaves hr (e.symm.trans h)
  | branch fl pol d => cases h; exact (quiet_registers s ..).leaves
  | brk => exact settle_leaves ((past 1).trans (quiet_takeBreak _)) h
  | rti => exact settle_leaves ((past 1).trans (quiet_returnFromBreak _)) h
  | rts => exact settle_leaves ((past 1).trans (quiet_returnFromSubroutine _)) h
  | jmp j => exact jumpTo_leaves (past 3) h
  | jsr w =>
    have hq := (past 3).trans (quiet_push16 (s.pc + 2) (s.advance 3))
    simp only [execForm, execJsr] at h
    split at h
    · next e =>
      rw [e] at hq
      exact jumpTo_leaves hq h
    · next k u e =>
      rw [e] at hq
      cases h
      exact ⟨u, hq.toKept, .inl hq.callouts, .inr ⟨k, _, rfl⟩⟩
  | read op src =>
    obtain ⟨a, x, y, p, e⟩ := execRead_next op src s
    cases e.symm.trans h
    exact (quiet_registers s ..).leaves
  | store op m => cases h; exact Quiet.leaves (quiet_store s ..)
  | shift op pl =>
    cases pl <;> cases h
    · exact (quiet_registers s ..).leaves
    · exact Quiet.leaves (quiet_store s ..)
  | bump op m => cases h; exact Quiet.leaves (quiet_store s ..)

end Sys2Proof.Machine
end

