-- ==== Sys2Proof/Laws/Cases.lean ====
section
/-! SUPPORT. Everything `exec` can answer with a next state, said once: one case per shape of instruction, with the
faults of the stack instructions and the two ends of a jump. -/
namespace Sys2Proof.Machine

theorem push8_cases (v : Byte) (s : State) :
    push8 v s = .raised .stackOverflow s ∨ s.sp ≠ 0 ∧ push8 v s = .done () (pushed v s) := by
  by_cases h : s.sp = 0
  · exact .inl (push8_raised h v)
  · exact .inr ⟨h, push8_done h v⟩

theorem pop8_cases (s : State) :
    pop8 s = .raised .stackUnderflow s ∨
      s.sp ≠ 0xFF ∧ pop8 s = .done (s.mem.read (0x101 + s.sp.toNat)) { s with sp := s.sp + 1 } := by
  by_cases h : s.sp = 0xFF
  · exact .inl (pop8_raised h)
  · exact .inr ⟨h, pop8_done h⟩

theorem pop16_cases (s : State) :
    (∃ sp, pop16 s = .raised .stackUnderflow { s with sp := sp }) ∨
      ∃ w, pop16 s = .done w { s with sp := s.sp + 2 } := by
  by_cases h : s.sp.toNat ≤ 0xFD
  · exact .inr ⟨_, pop16_done h⟩
  · have hlt := s.sp.isLt
    rcases (by omega : s.sp.toNat = 0xFE ∨ s.sp.toNat = 0xFF) with h | h
    · exact .inl ⟨_, pop16_raised_second (BitVec.eq_of_toNat_eq h)⟩
    · exact .inl ⟨s.sp, pop16_raised_first (BitVec.eq_of_toNat_eq h)⟩

/-- Memory differs at most in the `n` cells from `0x0100 + SP` down, and never at 0x0100. -/
def CellsOnly (n : Nat) (sp : Byte) (m m' : Memory) : Prop :=
  ∀ a, (∀ k, k < n → k < sp.toNat → a ≠ 0x100 + sp.toNat - k) → m'.read a = m.read a

theorem push16_cases (w : Word) (s : State) :
    (∃ m sp, push16 w s = .raised .stackOverflow { s with mem := m, sp := sp } ∧ CellsOnly 2 s.sp s.mem m) ∨
      ∃ m, push16 w s = .done () { s with mem := m, sp := s.sp - 2 } ∧ CellsOnly 2 s.sp s.mem m ∧
        2 ≤ s.sp.toNat := by
  by_cases h : 2 ≤ s.sp.toNat
  · refine .inr ⟨_, push16_done h w, fun a ha => ?_, h⟩
    have h0 := ha 0 (by omega) (by omega)
    have h1 := ha 1 (by omega) (by omega)
    rw [Memory.read_write_other (by omega), Memory.read_write_other (by omega)]
  · rcases (by omega : s.sp.toNat = 0 ∨ s.sp.toNat = 1) with h | h
    · exact .inl ⟨s.mem, s.sp, push16_raised_first (BitVec.eq_of_toNat_eq h) w, fun _ _ => rfl⟩
    · refine .inl ⟨_, _, push16_raised_second (BitVec.eq_of_toNat_eq h) w, fun a ha => ?_⟩
      have h0 := ha 0 (by omega) (by omega)
      rw [Memory.read_write_other (by omega)]

theorem takeBreak_cases (s : State) :
    (∃ m sp, takeBreak s = .raised .stackOverflow { s with mem := m, sp := sp, p := { s.p with b := true } } ∧
        CellsOnly 3 s.sp s.mem m) ∨
      ∃ m pc, takeBreak s = .done () { s with mem := m, sp := s.sp - 3, pc := pc, p := { s.p with b := true } } ∧
        CellsOnly 3 s.sp s.mem m := by
  unfold takeBreak
  obtain ⟨m, sp, e, hc⟩ | ⟨m, e, hc, hs⟩ := push16_cases s.pc { s with p := { s.p with b := true } }
  · rw [e]
    exact .inl ⟨m, sp, rfl, fun a ha => hc a fun k hk => ha k (by omega)⟩
  · rw [e, andThen_done]
    obtain e | ⟨h0, e⟩ := push8_cases (Flags.pack { s.p with b := true })
      { s with mem := m, sp := s.sp - 2, p := { s.p with b := true } }
    · rw [e]
      exact .inl ⟨m, _, rfl, fun a ha => hc a fun k hk => ha k (by omega)⟩
    · rw [e, andThen_done]
      have hs : 2 ≤ s.sp.toNat := hs
      have e2 := toNat_sub_two hs
      have h2 : (s.sp - 2).toNat ≠ 0 := fun h => h0 (BitVec.eq_of_toNat_eq h)
      refine .inr ⟨m.write (0x100 + (s.sp - 2).toNat) (Flags.pack { s.p with b := true }),
        (pushed (Flags.pack { s.p with b := true })
          { s with mem := m, sp := s.sp - 2, p := { s.p with b := true } }).read16 Config.brkVector, ?_, fun a ha => ?_⟩
      · have e3 : s.sp - 2 - 1 = s.sp - 3 := by rw [BitVec.sub_sub]; rfl
        simp only [pushed, e3]
      · refine Eq.trans (Memory.read_write_other ?_) (hc a fun k hk => ha k (by omega))
        have h3 := ha 2 (by omega) (by omega)
        omega

theorem returnFromBreak_cases (s : State) :
    (∃ sp p, returnFromBreak s = .raised .stackUnderflow { s with sp := sp, p := p }) ∨
      ∃ sp p pc, returnFromBreak s = .done () { s with sp := sp, p := p, pc := pc } := by
  unfold returnFromBreak
  obtain e | ⟨-, e⟩ := pop8_cases s
  · rw [e]
    exact .inl ⟨s.sp, s.p, rfl⟩
  · rw [e, andThen_done]
    obtain ⟨sp, e⟩ | ⟨w, e⟩ := pop16_cases
      { s with sp := s.sp + 1, p := Flags.unpack (s.mem.read (0x101 + s.sp.toNat)) }
    · rw [e]
      exact .inl ⟨_, _, rfl⟩
    · rw [e]
      exact .inr ⟨_, _, _, rfl⟩

theorem returnFromSubroutine_cases (s : State) :
    (∃ sp, returnFromSubroutine s = .raised .stackUnderflow { s with sp := sp }) ∨
      ∃ sp pc, returnFromSubroutine s = .done () { s with sp := sp, pc := pc } := by
  unfold returnFromSubroutine
  obtain ⟨sp, e⟩ | ⟨w, e⟩ := pop16_cases s
  · rw [e]
    exact .inl ⟨_, rfl⟩
  · rw [e]
    exact .inr ⟨_, _, rfl⟩

/-- A handler ran, and the return after it completed or raised StackUnderflow. -/
def RanHandler (opcode : Byte) (s t : State) : Prop :=
  t.callouts = s.callouts + 1 ∧ (t.halted = s.halted ∨ t.fault = some ⟨.stackUnderflow, opcode, s.pc⟩)

theorem jumpTo_next {w : Word} {opcode : Byte} {a0 : Word} {s t : State} (h : jumpTo w opcode a0 s = .next t) :
    t = { s with pc := w } ∨
      t.callouts = s.callouts + 1 ∧ (t.halted = s.halted ∨ t.fault = some ⟨.stackUnderflow, opcode, a0⟩) := by
  obtain ⟨-, e⟩ | ⟨-, -, e⟩ | ⟨-, -, e⟩ := jumpTo_cases w opcode a0 s
  · rw [e] at h
    cases h
    exact .inl rfl
  · rw [e] at h
    generalize Config.handlerEffect s.callouts w s.handlerView = eff at h
    by_cases hsp : eff.sp.toNat ≤ 0xFD
    · rw [calloutWith_done hsp] at h
      cases h
      exact .inr ⟨rfl, .inl rfl⟩
    · rw [calloutWith_raised (by omega)] at h
      cases h
      exact .inr ⟨rfl, .inr rfl⟩
  · rw [e] at h
    cases h

/-- The instructions whose form is theirs alone. -/
theorem eq_of_form (i : Instr) :
    match i.form with
    | .implied .php => i = .php
    | .implied .plp => i = .plp
    | .implied .pha => i = .pha
    | .implied .pla => i = .pla
    | .brk => i = .brk
    | .rti => i = .rti
    | .rts => i = .rts
    | .jsr w => i = .jsr w
    | _ => True := by
  cases i <;> first | exact trivial | rfl

/-- Every next state of every instruction. -/
inductive ExecCase (i : Instr) (s t : State) : Prop where
  | push (v : Byte) (hi : i = .php ∧ v = s.p.pack ||| 0x30 ∨ i = .pha ∧ v = s.a)
      (ht : t = (s.advance 1).halt .stackOverflow i.opcode s.pc ∨ s.sp ≠ 0 ∧ t = pushed v (s.advance 1))
  | plp (v : Byte) (hi : i = .plp)
      (ht : t = (s.advance 1).halt .stackUnderflow i.opcode s.pc ∨
        t = { s.advance 1 with sp := s.sp + 1, p := Flags.unpack v })
  | pla (v : Byte) (hi : i = .pla)
      (ht : t = (s.advance 1).halt .stackUnderflow i.opcode s.pc ∨
        t = State.setA { s.advance 1 with sp := s.sp + 1 } v)
  | brk (m : Memory) (sp : Byte) (hi : i = .brk) (hm : CellsOnly 3 s.sp s.mem m)
      (ht : t = State.halt { s.advance 1 with sp := sp, mem := m, p := { s.p with b := true } }
          .stackOverflow i.opcode s.pc ∨
        ∃ pc, t = { s with sp := sp, mem := m, p := { s.p with b := true }, pc := pc })
  | rti (sp : Byte) (p : Flags) (hi : i = .rti)
      (ht : t = State.halt { s.advance 1 with sp := sp, p := p } .stackUnderflow i.opcode s.pc ∨
        ∃ pc, t = { s with sp := sp, p := p, pc := pc })
  | rts (sp : Byte) (hi : i = .rts)
      (ht : t = State.halt { s.advance 1 with sp := sp } .stackUnderflow i.opcode s.pc ∨
        ∃ pc, t = { s with sp := sp, pc := pc })
  | jsr (w : Word) (m : Memory) (sp : Byte) (hi : i = .jsr w) (hm : CellsOnly 2 s.sp s.mem m)
      (ht : t = State.halt { s.advance 3 with sp := sp, mem := m } .stackOverflow i.opcode s.pc ∨
        t = { s with sp := sp, mem := m, pc := w } ∨ RanHandler i.opcode s t)
  | jmp (j : Jump) (hi : i.form = .jmp j) (ht : (∃ pc, t = { s with pc := pc }) ∨ RanHandler i.opcode s t)
  | branch (f : BranchFlag) (pol : Bool) (d : Int) (pc : Word) (hi : i.form = .branch f pol d)
      (ht : t = { s with pc := pc })
  | implied (op : ImpliedOp) (hi : i.form = .implied op) (hop : op ≠ .php ∧ op ≠ .plp ∧ op ≠ .pha ∧ op ≠ .pla)
      (ht : execImplied op s = .next t)
  | read (op : ReadOp) (src : Src) (hi : i.form = .read op src) (ht : execRead op src s = .next t)
  | store (op : StoreOp) (m : Addr) (hi : i.form = .store op m)
      (ht : t = (s.write (effectiveAddress m s) (storedRegister op s)).advance m.length)
  | shiftA (op : ShiftOp) (hi : i.form = .shift op .acc)
      (ht : t = State.advance { s with a := shiftByte op s.a s.p.c, p := shiftFlags op s.a s.p } 1)
  | shiftM (op : ShiftOp) (m : Addr) (v : Byte) (hi : i.form = .shift op (.mem m))
      (ht : t = State.advance
        { s.write (effectiveAddress m s) (shiftByte op v s.p.c) with p := shiftFlags op v s.p } m.length)
  | bump (op : BumpOp) (m : Addr) (v : Byte) (hi : i.form = .bump op m)
      (ht : t = State.advance { s.write (effectiveAddress m s) v with p := s.p.setZN v } m.length)

theorem exec_cases {i : Instr} {s t : State} (h : exec i s = .next t) : ExecCase i s t := by
  rw [exec_eq_execForm] at h
  generalize hf : i.form = f at h
  cases f with
  | implied op =>
    cases op
    case php =>
      have hi : i = .php := by simpa only [hf] using eq_of_form i
      simp only [execForm, execImplied, execPhp] at h
      obtain e | ⟨h0, e⟩ := push8_cases (s.p.pack ||| 0x30) (s.advance 1) <;> rw [e] at h <;> cases h
      · exact .push _ (.inl ⟨hi, rfl⟩) (.inl (by rw [hi]))
      · exact .push _ (.inl ⟨hi, rfl⟩) (.inr ⟨h0, rfl⟩)
    case pha =>
      have hi : i = .pha := by simpa only [hf] using eq_of_form i
      simp only [execForm, execImplied, execPha] at h
      obtain e | ⟨h0, e⟩ := push8_cases s.a (s.advance 1) <;> rw [e] at h <;> cases h
      · exact .push _ (.inr ⟨hi, rfl⟩) (.inl (by rw [hi]))
      · exact .push _ (.inr ⟨hi, rfl⟩) (.inr ⟨h0, rfl⟩)
    case plp =>
      have hi : i = .plp := by simpa only [hf] using eq_of_form i
      simp only [execForm, execImplied, execPlp] at h
      obtain e | ⟨-, e⟩ := pop8_cases (s.advance 1) <;> rw [e] at h <;> cases h
      · exact .plp 0 hi (.inl (by rw [hi]))
      · exact .plp _ hi (.inr rfl)
    case pla =>
      have hi : i = .pla := by simpa only [hf] using eq_of_form i
      simp only [execForm, execImplied, execPla] at h
      obtain e | ⟨-, e⟩ := pop8_cases (s.advance 1) <;> rw [e] at h <;> cases h
      · exact .pla 0 hi (.inl (by rw [hi]))
      · exact .pla _ hi (.inr rfl)
    all_goals exact .implied _ hf (by decide) h
  | branch fl pol d => cases h; exact .branch _ _ _ _ hf rfl
  | brk =>
    have hi : i = .brk := by simpa only [hf] using eq_of_form i
    simp only [execForm, execBrk] at h
    obtain ⟨m, sp, e, hm⟩ | ⟨m, pc, e, hm⟩ := takeBreak_cases (s.advance 1) <;> rw [e] at h <;> cases h
    · exact .brk m sp hi hm (.inl (by rw [hi]; rfl))
    · exact .brk m _ hi hm (.inr ⟨_, rfl⟩)
  | rti =>
    have hi : i = .rti := by simpa only [hf] using eq_of_form i
    simp only [execForm, execRti] at h
    obtain ⟨sp, p, e⟩ | ⟨sp, p, pc, e⟩ := returnFromBreak_cases (s.advance 1) <;> rw [e] at h <;> cases h
    · exact .rti sp p hi (.inl (by rw [hi]))
    · exact .rti sp p hi (.inr ⟨_, rfl⟩)
  | rts =>
    have hi : i = .rts := by simpa only [hf] using eq_of_form i
    simp only [execForm, execRts] at h
    obtain ⟨sp, e⟩ | ⟨sp, pc, e⟩ := returnFromSubroutine_cases (s.advance 1) <;> rw [e] at h <;> cases h
    · exact .rts sp hi (.inl (by rw [hi]))
    · exact .rts sp hi (.inr ⟨_, rfl⟩)
  | jsr w =>
    have hi : i = .jsr w := by simpa only [hf] using eq_of_form i
    simp only [execForm, execJsr] at h
    obtain ⟨m, sp, e, hm⟩ | ⟨m, e, hm, -⟩ := push16_cases (s.pc + 2) (s.advance 3) <;> rw [e] at h
    · cases h
      exact .jsr w m sp hi hm (.inl (by rw [hi]))
    · obtain rfl | hr := jumpTo_next h
      · exact .jsr w m _ hi hm (.inr (.inl rfl))
      · exact .jsr w m 0 hi hm (.inr (.inr (by rw [hi]; exact hr)))
  | jmp j =>
    obtain rfl | hr := jumpTo_next h
    · exact .jmp j hf (.inl ⟨_, rfl⟩)
    · exact .jmp j hf (.inr hr)
  | read op src => exact .read _ _ hf h
  | store op m => cases h; exact .store _ _ hf rfl
  | shift op pl =>
    cases pl <;> cases h
    · exact .shiftA _ hf rfl
    · exact .shiftM _ _ _ hf rfl
  | bump op m => cases h; exact .bump _ _ _ hf rfl

end Sys2Proof.Machine
end

