-- ==== Sys2Proof/Laws/Decode.lean ====
section
/-! SUPPORT. Bytes and words, displacement bytes, and one lemma for each instruction length that says what decoding an
opcode with its operand bytes gives. -/
namespace Sys2Proof

theorem wordOf_toNat (lo hi : Byte) : (wordOf lo hi).toNat = lo.toNat + 256 * hi.toNat := by
  have h := lo.isLt
  simp only [wordOf, BitVec.toNat_append]
  rw [← Nat.shiftLeft_add_eq_or_of_lt h, Nat.shiftLeft_eq]
  omega

theorem loByte_toNat (w : Word) : (loByte w).toNat = w.toNat % 256 := by
  simp [loByte, BitVec.extractLsb'_toNat]

theorem hiByte_toNat (w : Word) : (hiByte w).toNat = w.toNat / 256 := by
  have h := w.isLt
  simp only [hiByte, BitVec.extractLsb'_toNat, Nat.shiftRight_eq_div_pow]
  omega

theorem wordOf_lo_hi (w : Word) : wordOf (loByte w) (hiByte w) = w := by
  refine BitVec.eq_of_toNat_eq ?_
  rw [wordOf_toNat, loByte_toNat, hiByte_toNat]
  omega

theorem loByte_wordOf (lo hi : Byte) : loByte (wordOf lo hi) = lo := by
  refine BitVec.eq_of_toNat_eq ?_
  have h := lo.isLt
  rw [loByte_toNat, wordOf_toNat]
  omega

theorem hiByte_wordOf (lo hi : Byte) : hiByte (wordOf lo hi) = hi := by
  refine BitVec.eq_of_toNat_eq ?_
  have h := lo.isLt
  rw [hiByte_toNat, wordOf_toNat]
  omega

theorem displacementOf_byte {d : Int} (h : displacementFits d) : displacementOf (displacementByte d) = d := by
  obtain ⟨h1, h2⟩ := h
  simp only [displacementOf, displacementByte, BitVec.toInt_ofInt]
  rw [Int.bmod_eq_of_le] <;> omega

theorem displacementByte_of (b : Byte) : displacementByte (displacementOf b) = b :=
  BitVec.ofInt_toInt

theorem displacementOf_fits (b : Byte) : displacementFits (displacementOf b) := by
  have h1 := BitVec.le_toInt b
  have h2 := BitVec.toInt_lt (x := b)
  simp only [displacementOf]
  omega

/-- A decoded instruction is one of the list's own and leaves the rest. -/
theorem decode_cons {op : Byte} {rest : List Byte} {i : Instr}
    (h : decodeOpcode op (rest.getD 0 0) (rest.getD 1 0) = some i) (hl : i.length ≤ rest.length + 1) :
    decode (op :: rest) = .instr i (rest.drop (i.length - 1)) := by
  have h' : ¬ rest.length + 1 < i.length := by omega
  simp only [decode, h, if_neg h']

theorem decode_one {op : Byte} {rest : List Byte} {i : Instr}
    (h : decodeOpcode op (rest.getD 0 0) (rest.getD 1 0) = some i) (hl : i.length = 1) :
    decode (op :: rest) = .instr i rest := by
  rw [decode_cons h (by omega), hl]; rfl

theorem decode_two {op b1 : Byte} {rest : List Byte} {i : Instr}
    (h : decodeOpcode op b1 (rest.getD 0 0) = some i) (hl : i.length = 2) :
    decode (op :: b1 :: rest) = .instr i rest := by
  rw [decode_cons (by simpa using h) (by simp [hl]), hl]; rfl

theorem decode_three {op b1 b2 : Byte} {rest : List Byte} {i : Instr}
    (h : decodeOpcode op b1 b2 = some i) (hl : i.length = 3) :
    decode (op :: b1 :: b2 :: rest) = .instr i rest := by
  rw [decode_cons (by simpa using h) (by simp [hl]), hl]; rfl

/-- What `decode` answers, by what its opcode decodes to. -/
theorem decode_eq_instr {op : Byte} {rest r : List Byte} {i : Instr} (h : decode (op :: rest) = .instr i r) :
    decodeOpcode op (rest.getD 0 0) (rest.getD 1 0) = some i ∧ i.length ≤ rest.length + 1 ∧
      r = rest.drop (i.length - 1) := by
  simp only [decode] at h
  split at h
  · cases h
  · next j hj =>
    split at h
    · cases h
    · cases h; exact ⟨hj, by omega, rfl⟩

end Sys2Proof
end

