-- ==== Sys2Proof/Laws/DecodeOpcode.lean ====
section
/-! SUPPORT. Everything the decoder says of one opcode and the two bytes after it, by the 256 opcodes. -/
namespace Sys2Proof

/-- An instruction that is decoded is well formed, has the opcode it was decoded from, is one to three bytes long, and
its bytes are the first of the three it was decoded from. -/
theorem decodeOpcode_spec {op b1 b2 : Byte} {i : Instr} (h : decodeOpcode op b1 b2 = some i) :
    i.WellFormed ∧ i.opcode = op ∧ 1 ≤ i.length ∧ i.length ≤ 3 ∧ encode i = [op, b1, b2].take i.length := by
  obtain ⟨n, hn, rfl⟩ : ∃ n, n < 256 ∧ op = BitVec.ofNat 8 n := ⟨op.toNat, op.isLt, by simp⟩
  interval_cases n
  all_goals cases h
  all_goals refine ⟨(by rintro d ⟨⟩; try exact displacementOf_fits b1), rfl, Nat.le_of_ble_eq_true rfl,
    Nat.le_of_ble_eq_true rfl, ?_⟩
  all_goals first
    | rfl
    | (show [_, displacementByte (displacementOf b1)] = _; rw [displacementByte_of]; rfl)
    | (show [_, loByte (wordOf b1 b2), hiByte (wordOf b1 b2)] = _; rw [loByte_wordOf, hiByte_wordOf]; rfl)

/-- The opcode byte alone decides whether there is an instruction (30_encoding.md R74). -/
theorem decodeOpcode_isSome (op b1 b2 c1 c2 : Byte) :
    (decodeOpcode op b1 b2).isSome = (decodeOpcode op c1 c2).isSome := by
  obtain ⟨n, hn, rfl⟩ : ∃ n, n < 256 ∧ op = BitVec.ofNat 8 n := ⟨op.toNat, op.isLt, by simp⟩
  interval_cases n <;> rfl

end Sys2Proof
end

