-- ==== Sys2Proof/Laws/Cycles.lean ====
section
/-! SUPPORT. What a step costs, and the least it costs under 40_step_and_run.md R111. -/
namespace Sys2Proof.Machine

/-- An Illegal opcode has base cost 0. -/
theorem baseCost_illegal (c : HostConfig) {op b1 b2 : Byte} (h : decodeOpcode op b1 b2 = none) : c.baseCost op = 0 := by
  rw [HostConfig.baseCost, decodeOpcode_isSome op 0 0 b1 b2, h]
  rfl

/-- A legal opcode has its entry as base cost. -/
theorem baseCost_legal (c : HostConfig) {op b1 b2 : Byte} {i : Instr} (h : decodeOpcode op b1 b2 = some i) :
    c.baseCost op = c.costEntry op := by
  rw [HostConfig.baseCost, decodeOpcode_isSome op 0 0 b1 b2, h]
  rfl

/-- The least cost holds whatever the operand bytes. -/
theorem CostsAtLeast.le_baseCost {k : Nat} {c : HostConfig} (hc : CostsAtLeast k c) {op b1 b2 : Byte} {i : Instr}
    (h : decodeOpcode op b1 b2 = some i) : k ≤ c.baseCost op :=
  hc op (by rw [decodeOpcode_isSome op 0 0 b1 b2, h]; rfl)

/-- A step that runs an instruction to its end costs that instruction's cost. -/
theorem stepCost_of_next {s t : State} {i : Instr} (hs : s.halted = false) (hi : fetchDecode s = some i)
    (h : step s = .next t) (ht : t.halted = false) : stepCost s = instructionCost i s := by
  simp [stepCost, hs, hi, h, ht]

/-- A step of a running core halts it or costs at least what every legal opcode costs. -/
theorem CostsAtLeast.le_stepCost {k : Nat} {s t : State} (hc : CostsAtLeast k s.cfg) (hs : s.halted = false)
    (h : step s = .next t) (ht : t.halted = false) : k ≤ stepCost s := by
  cases hi : fetchDecode s with
  | none =>
    simp only [step, hs, hi] at h
    cases h
    cases ht
  | some i =>
    rw [stepCost_of_next hs hi h ht, instructionCost, (decodeOpcode_spec hi).2.1]
    exact Nat.le_add_right_of_le (hc.le_baseCost hi)

/-! ### The loop -/

@[simp] theorem runWithin_ended {budget : Int} {s : State} (h : budget ≤ 0 ∨ s.halted = true) (n : Nat) :
    runWithin n budget s = some (.next s) := by
  cases n with
  | zero => exact if_pos h
  | succ n => rw [runWithin, if_pos h]

/-- A loop that has ended within some iterations has ended so within more. -/
theorem runWithin_mono {n m : Nat} (hnm : n ≤ m) {budget : Int} {s : State} {r : Result}
    (h : runWithin n budget s = some r) : runWithin m budget s = some r := by
  induction n generalizing m budget s with
  | zero =>
    by_cases hb : budget ≤ 0 ∨ s.halted = true
    · rwa [runWithin_ended hb] at h ⊢
    · rw [runWithin, if_neg hb] at h
      cases h
  | succ n ih =>
    obtain ⟨m, rfl⟩ : ∃ k, m = k + 1 := ⟨m - 1, by omega⟩
    by_cases hb : budget ≤ 0 ∨ s.halted = true
    · rwa [runWithin_ended hb] at h ⊢
    · rw [runWithin, if_neg hb] at h ⊢
      cases hs : step s with
      | next t => rw [hs] at h; exact ih (by omega) h
      | fault r => rwa [hs] at h
      | refused r => rwa [hs] at h

end Sys2Proof.Machine
end

