-- ==== Sys2Proof/Laws/Flags.lean ====
section
/-! SUPPORT. The flag computations in numbers: the top bits of a byte, `SetZN`, signed overflow of an addition, decimal
digits, and the range of the decimal values. -/
namespace Sys2Proof.Machine

theorem getElem_seven (v : Byte) : v[7] = decide (0x80 ≤ v.toNat) := by
  have h := BitVec.msb_eq_decide v
  rw [BitVec.msb_eq_getLsbD_last] at h
  exact h

theorem byte_eq_zero_iff (v : Byte) : v = 0 ↔ v.toNat = 0 :=
  ⟨fun h => by rw [h]; rfl, fun h => BitVec.eq_of_toNat_eq h⟩

/-- `SetZN` in numbers (10_state.md R30). -/
theorem setZN_eq_numbers (p : Flags) (v : Byte) :
    p.setZN v = { p with z := decide (v.toNat = 0), n := decide (0x80 ≤ v.toNat) } := by
  simp only [Flags.setZN, getElem_seven, byte_eq_zero_iff]

theorem toInt_eq_ite (v : Byte) : v.toInt = if 0x80 ≤ v.toNat then (v.toNat : Int) - 256 else v.toNat := by
  rw [BitVec.toInt_eq_toNat_cond]
  split <;> split <;> omega

/-- Overflow of ADC is signed overflow of the sum (47_group_cc1.md R224). -/
theorem adcOverflow_eq_signed (a m : Byte) (c : Bool) :
    adcOverflow a m c =
      decide (a.toInt + m.toInt + c.toNat < -128 ∨ 127 < a.toInt + m.toInt + (c.toNat : Int)) := by
  have h1 := a.isLt
  have h2 := m.isLt
  have h3 := Bool.toNat_le c
  have h4 : (adcByte a m c).toNat = (a.toNat + m.toNat + c.toNat) % 256 := by simp [adcByte, adcSum]
  rw [adcOverflow, getElem_seven, getElem_seven, getElem_seven, ← Bool.decide_and, decide_eq_decide, h4,
    decide_eq_decide, Ne, decide_eq_decide, toInt_eq_ite, toInt_eq_ite]
  split <;> split <;> omega

theorem borrowOf_eq (c : Bool) : borrowOf c = 1 - (c.toNat : Int) := by cases c <;> rfl

/-- A valid decimal byte stands for a number up to 99 (47_group_cc1.md R229). -/
theorem bcdVal_le {v : Byte} (h : bcdValid v = true) : bcdVal v ≤ 99 := by
  simp only [bcdValid, Bool.and_eq_true, decide_eq_true_eq] at h
  simp only [bcdVal]
  omega

/-- The byte made for a number up to 99 is valid and stands for it (47_group_cc1.md R229). -/
theorem bcdEnc_spec {n : Nat} (h : n < 100) : bcdValid (bcdEnc n) = true ∧ bcdVal (bcdEnc n) = n := by
  have e : (bcdEnc n).toNat = n / 10 * 16 + n % 10 := by
    simp only [bcdEnc, BitVec.toNat_ofNat]
    omega
  constructor
  · simp only [bcdValid, e, Bool.and_eq_true, decide_eq_true_eq]
    omega
  · simp only [bcdVal, e]
    omega

theorem ofInt_sub_toNat (a b : Byte) : BitVec.ofInt 8 ((a.toNat : Int) - b.toNat) = a - b := by
  apply BitVec.eq_of_toNat_eq
  rw [BitVec.toNat_ofInt, BitVec.toNat_sub]
  have h1 := a.isLt
  have h2 := b.isLt
  omega

end Sys2Proof.Machine
end

