-- ==== Sys2Proof/Laws/Operands.lean ====
section
/-! SUPPORT. The address resolver in numbers. -/
namespace Sys2Proof.Machine

@[simp] theorem zext16_toNat (b : Byte) : (zext16 b).toNat = b.toNat := by
  have h := b.isLt
  simp only [zext16, BitVec.toNat_setWidth]
  omega

/-- A byte read through an address is the byte at its number. -/
theorem read_eq_of_toNat {s : State} {w : Word} {n : Nat} (h : w.toNat = n) : s.read w = s.mem.read n := by
  rw [← h]; rfl

/-- The pointer in the zero page, low byte first (41_addressing.md R134). -/
theorem zpPtr16_toNat (d : Byte) (s : State) :
    (zpPtr16 d s).toNat = (s.mem.read d.toNat).toNat +
      256 * (s.mem.read (if s.cfg.zpPointerWrap then (d.toNat + 1) % 256 else d.toNat + 1)).toNat := by
  have hd := d.isLt
  have e : ∀ w : Bool, (if w then zext16 (d + 1) else zext16 d + 1).toNat =
      if w then (d.toNat + 1) % 256 else d.toNat + 1 := by
    intro w
    cases w
    · have h1 : (1 : Word).toNat = 1 := rfl
      simp only [Bool.false_eq_true, if_false, BitVec.toNat_add, zext16_toNat, h1]
      omega
    · have h1 : (1 : Byte).toNat = 1 := rfl
      simp only [if_true, zext16_toNat, BitVec.toNat_add, h1]
  rw [zpPtr16, wordOf_toNat, read_eq_of_toNat (zext16_toNat d), read_eq_of_toNat (e _)]

/-- The eight effective addresses in numbers (41_addressing.md R123 to R128, R130, R131). -/
theorem effectiveAddress_toNat (m : Addr) (s : State) :
    (effectiveAddress m s).toNat =
      match m with
      | .zp d => d.toNat
      | .zpx d => (d.toNat + s.x.toNat) % 256
      | .zpy d => (d.toNat + s.y.toNat) % 256
      | .abs w => w.toNat
      | .abx w => (w.toNat + s.x.toNat) % 65536
      | .aby w => (w.toNat + s.y.toNat) % 65536
      | .izx d => (zpPtr16 (d + s.x) s).toNat
      | .izy d => ((zpPtr16 d s).toNat + s.y.toNat) % 65536 := by
  cases m <;> simp [effectiveAddress, BitVec.toNat_add]

end Sys2Proof.Machine
end

