-- ==== Sys2Proof/Laws/PerInstr.lean ====
section
/-! SUPPORT. The per-instruction family of LAWS.json: the encoder writes as many bytes as the instruction is long
(30_encoding.md R70). One lemma per constructor. -/
namespace Sys2Proof.Laws.EncodedLength

/-- The encoding of `i` has `i.length` bytes. -/
def Statement (i : Instr) : Prop := (encode i).length = i.length

theorem php : Statement .php := rfl
theorem plp : Statement .plp := rfl
theorem pha : Statement .pha := rfl
theorem pla : Statement .pla := rfl
theorem clc : Statement .clc := rfl
theorem sec : Statement .sec := rfl
theorem cli : Statement .cli := rfl
theorem sei : Statement .sei := rfl
theorem clv : Statement .clv := rfl
theorem cld : Statement .cld := rfl
theorem sed : Statement .sed := rfl
theorem dey : Statement .dey := rfl
theorem iny : Statement .iny := rfl
theorem inx : Statement .inx := rfl
theorem dex : Statement .dex := rfl
theorem tya : Statement .tya := rfl
theorem tay : Statement .tay := rfl
theorem txa : Statement .txa := rfl
theorem tax : Statement .tax := rfl
theorem txs : Statement .txs := rfl
theorem tsx : Statement .tsx := rfl
theorem nop : Statement .nop := rfl
theorem bpl (d : Int) : Statement (.bpl d) := rfl
theorem bmi (d : Int) : Statement (.bmi d) := rfl
theorem bvc (d : Int) : Statement (.bvc d) := rfl
theorem bvs (d : Int) : Statement (.bvs d) := rfl
theorem bcc (d : Int) : Statement (.bcc d) := rfl
theorem bcs (d : Int) : Statement (.bcs d) := rfl
theorem bne (d : Int) : Statement (.bne d) := rfl
theorem beq (d : Int) : Statement (.beq d) := rfl
theorem brk : Statement .brk := rfl
theorem jsr (w : Word) : Statement (.jsr w) := rfl
theorem rti : Statement .rti := rfl
theorem rts : Statement .rts := rfl
theorem bitZp (d : Byte) : Statement (.bitZp d) := rfl
theorem bitAbs (w : Word) : Statement (.bitAbs w) := rfl
theorem jmpAbs (w : Word) : Statement (.jmpAbs w) := rfl
theorem jmpInd (w : Word) : Statement (.jmpInd w) := rfl
theorem styZp (d : Byte) : Statement (.styZp d) := rfl
theorem styAbs (w : Word) : Statement (.styAbs w) := rfl
theorem styZpx (d : Byte) : Statement (.styZpx d) := rfl
theorem ldyImm (v : Byte) : Statement (.ldyImm v) := rfl
theorem ldyZp (d : Byte) : Statement (.ldyZp d) := rfl
theorem ldyAbs (w : Word) : Statement (.ldyAbs w) := rfl
theorem ldyZpx (d : Byte) : Statement (.ldyZpx d) := rfl
theorem ldyAbx (w : Word) : Statement (.ldyAbx w) := rfl
theorem cpyImm (v : Byte) : Statement (.cpyImm v) := rfl
theorem cpyZp (d : Byte) : Statement (.cpyZp d) := rfl
theorem cpyAbs (w : Word) : Statement (.cpyAbs w) := rfl
theorem cpxImm (v : Byte) : Statement (.cpxImm v) := rfl
theorem cpxZp (d : Byte) : Statement (.cpxZp d) := rfl
theorem cpxAbs (w : Word) : Statement (.cpxAbs w) := rfl
theorem oraIzx (d : Byte) : Statement (.oraIzx d) := rfl
theorem oraZp (d : Byte) : Statement (.oraZp d) := rfl
theorem oraImm (v : Byte) : Statement (.oraImm v) := rfl
theorem oraAbs (w : Word) : Statement (.oraAbs w) := rfl
theorem oraIzy (d : Byte) : Statement (.oraIzy d) := rfl
theorem oraZpx (d : Byte) : Statement (.oraZpx d) := rfl
theorem oraAby (w : Word) : Statement (.oraAby w) := rfl
theorem oraAbx (w : Word) : Statement (.oraAbx w) := rfl
theorem andIzx (d : Byte) : Statement (.andIzx d) := rfl
theorem andZp (d : Byte) : Statement (.andZp d) := rfl
theorem andImm (v : Byte) : Statement (.andImm v) := rfl
theorem andAbs (w : Word) : Statement (.andAbs w) := rfl
theorem andIzy (d : Byte) : Statement (.andIzy d) := rfl
theorem andZpx (d : Byte) : Statement (.andZpx d) := rfl
theorem andAby (w : Word) : Statement (.andAby w) := rfl
theorem andAbx (w : Word) : Statement (.andAbx w) := rfl
theorem eorIzx (d : Byte) : Statement (.eorIzx d) := rfl
theorem eorZp (d : Byte) : Statement (.eorZp d) := rfl
theorem eorImm (v : Byte) : Statement (.eorImm v) := rfl
theorem eorAbs (w : Word) : Statement (.eorAbs w) := rfl
theorem eorIzy (d : Byte) : Statement (.eorIzy d) := rfl
theorem eorZpx (d : Byte) : Statement (.eorZpx d) := rfl
theorem eorAby (w : Word) : Statement (.eorAby w) := rfl
theorem eorAbx (w : Word) : Statement (.eorAbx w) := rfl
theorem adcIzx (d : Byte) : Statement (.adcIzx d) := rfl
theorem adcZp (d : Byte) : Statement (.adcZp d) := rfl
theorem adcImm (v : Byte) : Statement (.adcImm v) := rfl
theorem adcAbs (w : Word) : Statement (.adcAbs w) := rfl
theorem adcIzy (d : Byte) : Statement (.adcIzy d) := rfl
theorem adcZpx (d : Byte) : Statement (.adcZpx d) := rfl
theorem adcAby (w : Word) : Statement (.adcAby w) := rfl
theorem adcAbx (w : Word) : Statement (.adcAbx w) := rfl
theorem staIzx (d : Byte) : Statement (.staIzx d) := rfl
theorem staZp (d : Byte) : Statement (.staZp d) := rfl
theorem staAbs (w : Word) : Statement (.staAbs w) := rfl
theorem staIzy (d : Byte) : Statement (.staIzy d) := rfl
theorem staZpx (d : Byte) : Statement (.staZpx d) := rfl
theorem staAby (w : Word) : Statement (.staAby w) := rfl
theorem staAbx (w : Word) : Statement (.staAbx w) := rfl
theorem ldaIzx (d : Byte) : Statement (.ldaIzx d) := rfl
theorem ldaZp (d : Byte) : Statement (.ldaZp d) := rfl
theorem ldaImm (v : Byte) : Statement (.ldaImm v) := rfl
theorem ldaAbs (w : Word) : Statement (.ldaAbs w) := rfl
theorem ldaIzy (d : Byte) : Statement (.ldaIzy d) := rfl
theorem ldaZpx (d : Byte) : Statement (.ldaZpx d) := rfl
theorem ldaAby (w : Word) : Statement (.ldaAby w) := rfl
theorem ldaAbx (w : Word) : Statement (.ldaAbx w) := rfl
theorem cmpIzx (d : Byte) : Statement (.cmpIzx d) := rfl
theorem cmpZp (d : Byte) : Statement (.cmpZp d) := rfl
theorem cmpImm (v : Byte) : Statement (.cmpImm v) := rfl
theorem cmpAbs (w : Word) : Statement (.cmpAbs w) := rfl
theorem cmpIzy (d : Byte) : Statement (.cmpIzy d) := rfl
theorem cmpZpx (d : Byte) : Statement (.cmpZpx d) := rfl
theorem cmpAby (w : Word) : Statement (.cmpAby w) := rfl
theorem cmpAbx (w : Word) : Statement (.cmpAbx w) := rfl
theorem sbcIzx (d : Byte) : Statement (.sbcIzx d) := rfl
theorem sbcZp (d : Byte) : Statement (.sbcZp d) := rfl
theorem sbcImm (v : Byte) : Statement (.sbcImm v) := rfl
theorem sbcAbs (w : Word) : Statement (.sbcAbs w) := rfl
theorem sbcIzy (d : Byte) : Statement (.sbcIzy d) := rfl
theorem sbcZpx (d : Byte) : Statement (.sbcZpx d) := rfl
theorem sbcAby (w : Word) : Statement (.sbcAby w) := rfl
theorem sbcAbx (w : Word) : Statement (.sbcAbx w) := rfl
theorem aslZp (d : Byte) : Statement (.aslZp d) := rfl
theorem aslAcc : Statement .aslAcc := rfl
theorem aslAbs (w : Word) : Statement (.aslAbs w) := rfl
theorem aslZpx (d : Byte) : Statement (.aslZpx d) := rfl
theorem aslAbx (w : Word) : Statement (.aslAbx w) := rfl
theorem rolZp (d : Byte) : Statement (.rolZp d) := rfl
theorem rolAcc : Statement .rolAcc := rfl
theorem rolAbs (w : Word) : Statement (.rolAbs w) := rfl
theorem rolZpx (d : Byte) : Statement (.rolZpx d) := rfl
theorem rolAbx (w : Word) : Statement (.rolAbx w) := rfl
theorem lsrZp (d : Byte) : Statement (.lsrZp d) := rfl
theorem lsrAcc : Statement .lsrAcc := rfl
theorem lsrAbs (w : Word) : Statement (.lsrAbs w) := rfl
theorem lsrZpx (d : Byte) : Statement (.lsrZpx d) := rfl
theorem lsrAbx (w : Word) : Statement (.lsrAbx w) := rfl
theorem rorZp (d : Byte) : Statement (.rorZp d) := rfl
theorem rorAcc : Statement .rorAcc := rfl
theorem rorAbs (w : Word) : Statement (.rorAbs w) := rfl
theorem rorZpx (d : Byte) : Statement (.rorZpx d) := rfl
theorem rorAbx (w : Word) : Statement (.rorAbx w) := rfl
theorem stxZp (d : Byte) : Statement (.stxZp d) := rfl
theorem stxAbs (w : Word) : Statement (.stxAbs w) := rfl
theorem stxZpy (d : Byte) : Statement (.stxZpy d) := rfl
theorem ldxImm (v : Byte) : Statement (.ldxImm v) := rfl
theorem ldxZp (d : Byte) : Statement (.ldxZp d) := rfl
theorem ldxAbs (w : Word) : Statement (.ldxAbs w) := rfl
theorem ldxZpy (d : Byte) : Statement (.ldxZpy d) := rfl
theorem ldxAby (w : Word) : Statement (.ldxAby w) := rfl
theorem decZp (d : Byte) : Statement (.decZp d) := rfl
theorem decAbs (w : Word) : Statement (.decAbs w) := rfl
theorem decZpx (d : Byte) : Statement (.decZpx d) := rfl
theorem decAbx (w : Word) : Statement (.decAbx w) := rfl
theorem incZp (d : Byte) : Statement (.incZp d) := rfl
theorem incAbs (w : Word) : Statement (.incAbs w) := rfl
theorem incZpx (d : Byte) : Statement (.incZpx d) := rfl
theorem incAbx (w : Word) : Statement (.incAbx w) := rfl

end Sys2Proof.Laws.EncodedLength
end

