-- ==== Sys2Proof/Tests/Slice0.lean ====
section
/-! SUPPORT. The model's own tests. The expected results are those of spec/95_test_vectors.md (each step test is named
after its vector) and of the encoding tables of 30_encoding.md; the witnesses show, for every statement with hypotheses,
a concrete state or operand that meets them. -/
namespace Sys2Proof.Tests
open Sys2Proof.Machine Sys2Proof.Stated

/-! ## Building and reading small states -/

/-- The vectors' baseline with its differences: PC, A, X, Y, SP, P, the instruction's bytes at PC, and memory cells. -/
def at_ (pc : Word) (a x y sp p : Byte) (code : List Byte) (cells : List (Word × Byte)) : State :=
  let s : State := { State.reset with a := a, x := x, y := y, sp := sp, p := Flags.unpack p
                                      mem := Memory.writeAll [] cells }
  hostSetPc pc (hostLoad pc code s)

/-- The baseline: `code` at 0x0200. -/
def base (code : List Byte) : State := at_ 0x0200 0x00 0x00 0x00 0xFF 0x04 code []

/-- The state configured with a callout range from 0x8000, and a handler registered at 0xFFD2. -/
def withHandler (s : State) : State := hostRegister 0xFFD2 { s with cfg := { s.cfg with calloutBase := 0x8000 } }

/-- What a vector states of the end of a step. -/
structure Seen where
  a : Byte
  x : Byte
  y : Byte
  sp : Byte
  p : Byte
  pc : Word
  cost : Nat
  fault : Option FaultDescriptor
  cells : List Byte
  deriving DecidableEq, Repr

/-- The next state seen through the vectors' columns; none when there is none. -/
def view (cost : Nat) (cells : List Word) : Result → Option Seen
  | .next t => some ⟨t.a, t.x, t.y, t.sp, t.p.pack, t.pc, cost, t.fault, cells.map t.read⟩
  | .fault _ | .refused _ => none

/-- One step, so seen. -/
def seen (s : State) (cells : List Word) : Option Seen := view (stepCost s) cells (step s)

/-- Each row's bytes decode to its instruction, and to nothing more. -/
def allDecode (rows : List (List Byte × Instr)) : Bool := rows.all fun c => decide (decode c.1 = .instr c.2 [])

/-! ## Well-formedness: the one check, with ill-formed terms -/

theorem test_illFormed_branch_high : ¬ (Instr.bpl 128).WellFormed := by decide
theorem test_illFormed_branch_low : ¬ (Instr.beq (-129)).WellFormed := by decide
theorem test_wellFormed_branch_ends : (Instr.bne 127).WellFormed ∧ (Instr.bcs (-128)).WellFormed := by decide
theorem test_wellFormed_no_check : Instr.nop.WellFormed ∧ (Instr.staAbx 0xFFFF).WellFormed := by decide

/-! ## Decoding: every constructor, from the bits of 30_encoding.md R74 to R82 -/

theorem test_decode_implied :
    allDecode
     [([0b00001000], .php),
      ([0b00101000], .plp),
      ([0b01001000], .pha),
      ([0b01101000], .pla),
      ([0b00011000], .clc),
      ([0b00111000], .sec),
      ([0b01011000], .cli),
      ([0b01111000], .sei),
      ([0b10111000], .clv),
      ([0b11011000], .cld),
      ([0b11111000], .sed),
      ([0b10001000], .dey)] = true ∧
    allDecode
     [([0b11001000], .iny),
      ([0b11101000], .inx),
      ([0b11001010], .dex),
      ([0b10011000], .tya),
      ([0b10101000], .tay),
      ([0b10001010], .txa),
      ([0b10101010], .tax),
      ([0b10011010], .txs),
      ([0b10111010], .tsx),
      ([0b11101010], .nop)] = true := by
  decide

theorem test_decode_branches :
    allDecode
     [([0b00010000, 0x80], .bpl (-128)),
      ([0b00110000, 0x80], .bmi (-128)),
      ([0b01010000, 0x80], .bvc (-128)),
      ([0b01110000, 0x80], .bvs (-128)),
      ([0b10010000, 0x80], .bcc (-128)),
      ([0b10110000, 0x80], .bcs (-128)),
      ([0b11010000, 0x80], .bne (-128)),
      ([0b11110000, 0x80], .beq (-128))] = true := by
  decide

theorem test_decode_control :
    allDecode
     [([0b00000000], .brk),
      ([0b00100000, 0x34, 0x12], .jsr 0x1234),
      ([0b01000000], .rti),
      ([0b01100000], .rts)] = true := by
  decide

theorem test_decode_group_cc0 :
    allDecode
     [([0b00100100, 0x86], .bitZp 0x86),
      ([0b00101100, 0x34, 0x12], .bitAbs 0x1234),
      ([0b01001100, 0x34, 0x12], .jmpAbs 0x1234),
      ([0b01101100, 0x34, 0x12], .jmpInd 0x1234),
      ([0b10000100, 0x86], .styZp 0x86),
      ([0b10001100, 0x34, 0x12], .styAbs 0x1234),
      ([0b10010100, 0x86], .styZpx 0x86),
      ([0b10100000, 0x86], .ldyImm 0x86),
      ([0b10100100, 0x86], .ldyZp 0x86),
      ([0b10101100, 0x34, 0x12], .ldyAbs 0x1234),
      ([0b10110100, 0x86], .ldyZpx 0x86),
      ([0b10111100, 0x34, 0x12], .ldyAbx 0x1234)] = true ∧
    allDecode
     [([0b11000000, 0x86], .cpyImm 0x86),
      ([0b11000100, 0x86], .cpyZp 0x86),
      ([0b11001100, 0x34, 0x12], .cpyAbs 0x1234),
      ([0b11100000, 0x86], .cpxImm 0x86),
      ([0b11100100, 0x86], .cpxZp 0x86),
      ([0b11101100, 0x34, 0x12], .cpxAbs 0x1234)] = true := by
  decide

theorem test_decode_group_cc1 :
    allDecode
     [([0b00000001, 0x86], .oraIzx 0x86),
      ([0b00000101, 0x86], .oraZp 0x86),
      ([0b00001001, 0x86], .oraImm 0x86),
      ([0b00001101, 0x34, 0x12], .oraAbs 0x1234),
      ([0b00010001, 0x86], .oraIzy 0x86),
      ([0b00010101, 0x86], .oraZpx 0x86),
      ([0b00011001, 0x34, 0x12], .oraAby 0x1234),
      ([0b00011101, 0x34, 0x12], .oraAbx 0x1234),
      ([0b00100001, 0x86], .andIzx 0x86),
      ([0b00100101, 0x86], .andZp 0x86),
      ([0b00101001, 0x86], .andImm 0x86),
      ([0b00101101, 0x34, 0x12], .andAbs 0x1234)] = true ∧
    allDecode
     [([0b00110001, 0x86], .andIzy 0x86),
      ([0b00110101, 0x86], .andZpx 0x86),
      ([0b00111001, 0x34, 0x12], .andAby 0x1234),
      ([0b00111101, 0x34, 0x12], .andAbx 0x1234),
      ([0b01000001, 0x86], .eorIzx 0x86),
      ([0b01000101, 0x86], .eorZp 0x86),
      ([0b01001001, 0x86], .eorImm 0x86),
      ([0b01001101, 0x34, 0x12], .eorAbs 0x1234),
      ([0b01010001, 0x86], .eorIzy 0x86),
      ([0b01010101, 0x86], .eorZpx 0x86),
      ([0b01011001, 0x34, 0x12], .eorAby 0x1234),
      ([0b01011101, 0x34, 0x12], .eorAbx 0x1234)] = true ∧
    allDecode
     [([0b01100001, 0x86], .adcIzx 0x86),
      ([0b01100101, 0x86], .adcZp 0x86),
      ([0b01101001, 0x86], .adcImm 0x86),
      ([0b01101101, 0x34, 0x12], .adcAbs 0x1234),
      ([0b01110001, 0x86], .adcIzy 0x86),
      ([0b01110101, 0x86], .adcZpx 0x86),
      ([0b01111001, 0x34, 0x12], .adcAby 0x1234),
      ([0b01111101, 0x34, 0x12], .adcAbx 0x1234),
      ([0b10000001, 0x86], .staIzx 0x86),
      ([0b10000101, 0x86], .staZp 0x86),
      ([0b10001101, 0x34, 0x12], .staAbs 0x1234),
      ([0b10010001, 0x86], .staIzy 0x86)] = true ∧
    allDecode
     [([0b10010101, 0x86], .staZpx 0x86),
      ([0b10011001, 0x34, 0x12], .staAby 0x1234),
      ([0b10011101, 0x34, 0x12], .staAbx 0x1234),
      ([0b10100001, 0x86], .ldaIzx 0x86),
      ([0b10100101, 0x86], .ldaZp 0x86),
      ([0b10101001, 0x86], .ldaImm 0x86),
      ([0b10101101, 0x34, 0x12], .ldaAbs 0x1234),
      ([0b10110001, 0x86], .ldaIzy 0x86),
      ([0b10110101, 0x86], .ldaZpx 0x86),
      ([0b10111001, 0x34, 0x12], .ldaAby 0x1234),
      ([0b10111101, 0x34, 0x12], .ldaAbx 0x1234),
      ([0b11000001, 0x86], .cmpIzx 0x86)] = true ∧
    allDecode
     [([0b11000101, 0x86], .cmpZp 0x86),
      ([0b11001001, 0x86], .cmpImm 0x86),
      ([0b11001101, 0x34, 0x12], .cmpAbs 0x1234),
      ([0b11010001, 0x86], .cmpIzy 0x86),
      ([0b11010101, 0x86], .cmpZpx 0x86),
      ([0b11011001, 0x34, 0x12], .cmpAby 0x1234),
      ([0b11011101, 0x34, 0x12], .cmpAbx 0x1234),
      ([0b11100001, 0x86], .sbcIzx 0x86),
      ([0b11100101, 0x86], .sbcZp 0x86),
      ([0b11101001, 0x86], .sbcImm 0x86),
      ([0b11101101, 0x34, 0x12], .sbcAbs 0x1234),
      ([0b11110001, 0x86], .sbcIzy 0x86)] = true ∧
    allDecode
     [([0b11110101, 0x86], .sbcZpx 0x86),
      ([0b11111001, 0x34, 0x12], .sbcAby 0x1234),
      ([0b11111101, 0x34, 0x12], .sbcAbx 0x1234)] = true := by
  decide

theorem test_decode_group_cc2 :
    allDecode
     [([0b00000110, 0x86], .aslZp 0x86),
      ([0b00001010], .aslAcc),
      ([0b00001110, 0x34, 0x12], .aslAbs 0x1234),
      ([0b00010110, 0x86], .aslZpx 0x86),
      ([0b00011110, 0x34, 0x12], .aslAbx 0x1234),
      ([0b00100110, 0x86], .rolZp 0x86),
      ([0b00101010], .rolAcc),
      ([0b00101110, 0x34, 0x12], .rolAbs 0x1234),
      ([0b00110110, 0x86], .rolZpx 0x86),
      ([0b00111110, 0x34, 0x12], .rolAbx 0x1234),
      ([0b01000110, 0x86], .lsrZp 0x86),
      ([0b01001010], .lsrAcc)] = true ∧
    allDecode
     [([0b01001110, 0x34, 0x12], .lsrAbs 0x1234),
      ([0b01010110, 0x86], .lsrZpx 0x86),
      ([0b01011110, 0x34, 0x12], .lsrAbx 0x1234),
      ([0b01100110, 0x86], .rorZp 0x86),
      ([0b01101010], .rorAcc),
      ([0b01101110, 0x34, 0x12], .rorAbs 0x1234),
      ([0b01110110, 0x86], .rorZpx 0x86),
      ([0b01111110, 0x34, 0x12], .rorAbx 0x1234),
      ([0b10000110, 0x86], .stxZp 0x86),
      ([0b10001110, 0x34, 0x12], .stxAbs 0x1234),
      ([0b10010110, 0x86], .stxZpy 0x86),
      ([0b10100010, 0x86], .ldxImm 0x86)] = true ∧
    allDecode
     [([0b10100110, 0x86], .ldxZp 0x86),
      ([0b10101110, 0x34, 0x12], .ldxAbs 0x1234),
      ([0b10110110, 0x86], .ldxZpy 0x86),
      ([0b10111110, 0x34, 0x12], .ldxAby 0x1234),
      ([0b11000110, 0x86], .decZp 0x86),
      ([0b11001110, 0x34, 0x12], .decAbs 0x1234),
      ([0b11010110, 0x86], .decZpx 0x86),
      ([0b11011110, 0x34, 0x12], .decAbx 0x1234),
      ([0b11100110, 0x86], .incZp 0x86),
      ([0b11101110, 0x34, 0x12], .incAbs 0x1234),
      ([0b11110110, 0x86], .incZpx 0x86),
      ([0b11111110, 0x34, 0x12], .incAbx 0x1234)] = true := by
  decide

/-! ## One step: the vectors of spec/95_test_vectors.md -/

theorem test_V2_php :
    seen (at_ 0x0200 0x00 0x00 0x00 0x80 0xCF [0x08] [])
      [0x0180] =
    some ⟨0x00, 0x00, 0x00, 0x7F, 0xCF, 0x0201, 3, none, [0xFF]⟩ := by
  decide
theorem test_V3_php :
    seen (at_ 0x0200 0x00 0x00 0x00 0x00 0x04 [0x08] [])
      [] =
    some ⟨0x00, 0x00, 0x00, 0x00, 0x04, 0x0201, 0, some ⟨.stackOverflow, 0x08, 0x0200⟩, []⟩ := by
  decide
theorem test_V4_plp :
    seen (at_ 0x0200 0x00 0x00 0x00 0xFE 0x04 [0x28] [(0x01FF, 0xFF)])
      [] =
    some ⟨0x00, 0x00, 0x00, 0xFF, 0xFF, 0x0201, 4, none, []⟩ := by
  decide
theorem test_V7_plp :
    seen (at_ 0x0200 0x00 0x00 0x00 0xFF 0x04 [0x28] [])
      [] =
    some ⟨0x00, 0x00, 0x00, 0xFF, 0x04, 0x0201, 0, some ⟨.stackUnderflow, 0x28, 0x0200⟩, []⟩ := by
  decide
theorem test_V8_pha :
    seen (at_ 0x0200 0x42 0x00 0x00 0xFF 0x04 [0x48] [])
      [0x01FF] =
    some ⟨0x42, 0x00, 0x00, 0xFE, 0x04, 0x0201, 3, none, [0x42]⟩ := by
  decide
theorem test_V10_pha :
    seen (at_ 0x0200 0x42 0x00 0x00 0x00 0x04 [0x48] [])
      [] =
    some ⟨0x42, 0x00, 0x00, 0x00, 0x04, 0x0201, 0, some ⟨.stackOverflow, 0x48, 0x0200⟩, []⟩ := by
  decide
theorem test_V12_pla :
    seen (at_ 0x0200 0x00 0x00 0x00 0xFE 0x04 [0x68] [(0x01FF, 0x80)])
      [] =
    some ⟨0x80, 0x00, 0x00, 0xFF, 0x84, 0x0201, 4, none, []⟩ := by
  decide
theorem test_V14_pla :
    seen (at_ 0x0200 0x55 0x00 0x00 0xFF 0x04 [0x68] [])
      [] =
    some ⟨0x55, 0x00, 0x00, 0xFF, 0x04, 0x0201, 0, some ⟨.stackUnderflow, 0x68, 0x0200⟩, []⟩ := by
  decide
theorem test_V15_clc :
    seen (at_ 0x0200 0x00 0x00 0x00 0xFF 0xFF [0x18] [])
      [] =
    some ⟨0x00, 0x00, 0x00, 0xFF, 0xFE, 0x0201, 2, none, []⟩ := by
  decide
theorem test_V16_sec :
    seen (at_ 0x0200 0x00 0x00 0x00 0xFF 0x04 [0x38] [])
      [] =
    some ⟨0x00, 0x00, 0x00, 0xFF, 0x05, 0x0201, 2, none, []⟩ := by
  decide
theorem test_V17_cli :
    seen (at_ 0x0200 0x00 0x00 0x00 0xFF 0x04 [0x58] [])
      [] =
    some ⟨0x00, 0x00, 0x00, 0xFF, 0x00, 0x0201, 2, none, []⟩ := by
  decide
theorem test_V18_sei :
    seen (at_ 0x0200 0x00 0x00 0x00 0xFF 0x00 [0x78] [])
      [] =
    some ⟨0x00, 0x00, 0x00, 0xFF, 0x04, 0x0201, 2, none, []⟩ := by
  decide
theorem test_V19_clv :
    seen (at_ 0x0200 0x00 0x00 0x00 0xFF 0x44 [0xB8] [])
      [] =
    some ⟨0x00, 0x00, 0x00, 0xFF, 0x04, 0x0201, 2, none, []⟩ := by
  decide
theorem test_V20_cld :
    seen (at_ 0x0200 0x00 0x00 0x00 0xFF 0x0C [0xD8] [])
      [] =
    some ⟨0x00, 0x00, 0x00, 0xFF, 0x04, 0x0201, 2, none, []⟩ := by
  decide
theorem test_V21_sed :
    seen (at_ 0x0200 0x00 0x00 0x00 0xFF 0x04 [0xF8] [])
      [] =
    some ⟨0x00, 0x00, 0x00, 0xFF, 0x0C, 0x0201, 2, none, []⟩ := by
  decide
theorem test_V22_dey :
    seen (at_ 0x0200 0x00 0x00 0x00 0xFF 0x04 [0x88] [])
      [] =
    some ⟨0x00, 0x00, 0xFF, 0xFF, 0x84, 0x0201, 2, none, []⟩ := by
  decide
theorem test_V24_iny :
    seen (at_ 0x0200 0x00 0x00 0xFF 0xFF 0x04 [0xC8] [])
      [] =
    some ⟨0x00, 0x00, 0x00, 0xFF, 0x06, 0x0201, 2, none, []⟩ := by
  decide
theorem test_V27_dex :
    seen (at_ 0x0200 0x00 0x01 0x00 0xFF 0x04 [0xCA] [])
      [] =
    some ⟨0x00, 0x00, 0x00, 0xFF, 0x06, 0x0201, 2, none, []⟩ := by
  decide
theorem test_V28_inx :
    seen (at_ 0x0200 0x00 0xFF 0x00 0xFF 0x04 [0xE8] [])
      [] =
    some ⟨0x00, 0x00, 0x00, 0xFF, 0x06, 0x0201, 2, none, []⟩ := by
  decide
theorem test_V30_tya :
    seen (at_ 0x0200 0x01 0x00 0x80 0xFF 0x04 [0x98] [])
      [] =
    some ⟨0x80, 0x00, 0x80, 0xFF, 0x84, 0x0201, 2, none, []⟩ := by
  decide
theorem test_V31_tay :
    seen (at_ 0x0200 0x00 0x00 0x33 0xFF 0x04 [0xA8] [])
      [] =
    some ⟨0x00, 0x00, 0x00, 0xFF, 0x06, 0x0201, 2, none, []⟩ := by
  decide
theorem test_V32_txa :
    seen (at_ 0x0200 0xFF 0x7F 0x00 0xFF 0x84 [0x8A] [])
      [] =
    some ⟨0x7F, 0x7F, 0x00, 0xFF, 0x04, 0x0201, 2, none, []⟩ := by
  decide
theorem test_V33_tax :
    seen (at_ 0x0200 0xC0 0x00 0x00 0xFF 0x04 [0xAA] [])
      [] =
    some ⟨0xC0, 0xC0, 0x00, 0xFF, 0x84, 0x0201, 2, none, []⟩ := by
  decide
theorem test_V35_txs :
    seen (at_ 0x0200 0x00 0x80 0x00 0xFF 0x04 [0x9A] [])
      [] =
    some ⟨0x00, 0x80, 0x00, 0x80, 0x04, 0x0201, 2, none, []⟩ := by
  decide
theorem test_V36_tsx :
    seen (at_ 0x0200 0x00 0x00 0x00 0xFF 0x04 [0xBA] [])
      [] =
    some ⟨0x00, 0xFF, 0x00, 0xFF, 0x84, 0x0201, 2, none, []⟩ := by
  decide
theorem test_V38_nop :
    seen (at_ 0x0200 0x01 0x02 0x03 0xFF 0xA5 [0xEA] [])
      [] =
    some ⟨0x01, 0x02, 0x03, 0xFF, 0xA5, 0x0201, 2, none, []⟩ := by
  decide
theorem test_V41_illegal :
    seen (at_ 0x0200 0x00 0x00 0x00 0xFF 0x04 [0xDA] [])
      [] =
    some ⟨0x00, 0x00, 0x00, 0xFF, 0x04, 0x0201, 0, some ⟨.decodeFault, 0xDA, 0x0200⟩, []⟩ := by
  decide
theorem test_V46_illegal :
    seen (at_ 0xFFFF 0x00 0x00 0x00 0xFF 0x04 [0x03] [])
      [] =
    some ⟨0x00, 0x00, 0x00, 0xFF, 0x04, 0x0000, 0, some ⟨.decodeFault, 0x03, 0xFFFF⟩, []⟩ := by
  decide
theorem test_V48_bpl :
    seen (at_ 0x0200 0x00 0x00 0x00 0xFF 0x04 [0x10, 0x05] [])
      [] =
    some ⟨0x00, 0x00, 0x00, 0xFF, 0x04, 0x0207, 3, none, []⟩ := by
  decide
theorem test_V49_bpl :
    seen (at_ 0x0200 0x00 0x00 0x00 0xFF 0x84 [0x10, 0x05] [])
      [] =
    some ⟨0x00, 0x00, 0x00, 0xFF, 0x84, 0x0202, 2, none, []⟩ := by
  decide
theorem test_V50_bmi :
    seen (at_ 0x0280 0x00 0x00 0x00 0xFF 0x80 [0x30, 0x80] [])
      [] =
    some ⟨0x00, 0x00, 0x00, 0xFF, 0x80, 0x0202, 3, none, []⟩ := by
  decide
theorem test_V52_bvc :
    seen (at_ 0x0200 0x00 0x00 0x00 0xFF 0x04 [0x50, 0x00] [])
      [] =
    some ⟨0x00, 0x00, 0x00, 0xFF, 0x04, 0x0202, 3, none, []⟩ := by
  decide
theorem test_V54_bvs :
    seen (at_ 0x0200 0x00 0x00 0x00 0xFF 0x40 [0x70, 0x7F] [])
      [] =
    some ⟨0x00, 0x00, 0x00, 0xFF, 0x40, 0x0281, 3, none, []⟩ := by
  decide
theorem test_V55_bvs :
    seen (at_ 0x0200 0x00 0x00 0x00 0xFF 0x04 [0x70, 0x05] [])
      [] =
    some ⟨0x00, 0x00, 0x00, 0xFF, 0x04, 0x0202, 2, none, []⟩ := by
  decide
theorem test_V56_bcc :
    seen (at_ 0xFFFE 0x00 0x00 0x00 0xFF 0x04 [0x90, 0x02] [])
      [] =
    some ⟨0x00, 0x00, 0x00, 0xFF, 0x04, 0x0002, 3, none, []⟩ := by
  decide
theorem test_V58_bcs :
    seen (at_ 0xFFFD 0x00 0x00 0x00 0xFF 0x01 [0xB0, 0x10] [])
      [] =
    some ⟨0x00, 0x00, 0x00, 0xFF, 0x01, 0x000F, 4, none, []⟩ := by
  decide
theorem test_V61_bne :
    seen (at_ 0x0200 0x00 0x00 0x00 0xFF 0x04 [0xD0, 0xFD] [])
      [] =
    some ⟨0x00, 0x00, 0x00, 0xFF, 0x04, 0x01FF, 4, none, []⟩ := by
  decide
theorem test_V66_beq :
    seen (at_ 0x02FE 0x00 0x00 0x00 0xFF 0x02 [0xF0, 0xFF] [])
      [] =
    some ⟨0x00, 0x00, 0x00, 0xFF, 0x02, 0x02FF, 4, none, []⟩ := by
  decide
theorem test_V67_brk :
    seen (at_ 0x0200 0x00 0x00 0x00 0xFF 0x04 [0x00] [(0xFFFE, 0x00), (0xFFFF, 0x03)])
      [0x01FD, 0x01FE, 0x01FF] =
    some ⟨0x00, 0x00, 0x00, 0xFC, 0x14, 0x0300, 7, none, [0x14, 0x01, 0x02]⟩ := by
  decide
theorem test_V70_brk :
    seen (at_ 0x0200 0x00 0x00 0x00 0x02 0x04 [0x00] [(0xFFFE, 0x00), (0xFFFF, 0x03)])
      [0x0101, 0x0102] =
    some ⟨0x00, 0x00, 0x00, 0x00, 0x14, 0x0201, 0, some ⟨.stackOverflow, 0x00, 0x0200⟩, [0x01, 0x02]⟩ := by
  decide
theorem test_V74_jsr :
    seen (at_ 0x0200 0x00 0x00 0x00 0xFF 0x04 [0x20, 0x00, 0x03] [])
      [0x01FE, 0x01FF] =
    some ⟨0x00, 0x00, 0x00, 0xFD, 0x04, 0x0300, 6, none, [0x02, 0x02]⟩ := by
  decide
theorem test_V76_jsr :
    seen (at_ 0x0200 0x00 0x00 0x00 0x01 0x04 [0x20, 0x00, 0x03] [])
      [0x0101] =
    some ⟨0x00, 0x00, 0x00, 0x00, 0x04, 0x0203, 0, some ⟨.stackOverflow, 0x20, 0x0200⟩, [0x02]⟩ := by
  decide
theorem test_V80_rti :
    seen (at_ 0x0200 0x00 0x00 0x00 0xFC 0x04 [0x40] [(0x01FD, 0xFF), (0x01FE, 0xFF), (0x01FF, 0xFF)])
      [] =
    some ⟨0x00, 0x00, 0x00, 0xFF, 0xFF, 0xFFFF, 6, none, []⟩ := by
  decide
theorem test_V81_rti :
    seen (at_ 0x0200 0x00 0x00 0x00 0xFD 0x04 [0x40] [(0x01FE, 0xC3), (0x01FF, 0x55)])
      [] =
    some ⟨0x00, 0x00, 0x00, 0xFF, 0xC3, 0x0201, 0, some ⟨.stackUnderflow, 0x40, 0x0200⟩, []⟩ := by
  decide
theorem test_V85_rts :
    seen (at_ 0x0200 0x00 0x00 0x00 0xFD 0x04 [0x60] [(0x01FE, 0xFF), (0x01FF, 0xFF)])
      [] =
    some ⟨0x00, 0x00, 0x00, 0xFF, 0x04, 0x0000, 6, none, []⟩ := by
  decide
theorem test_V86_rts :
    seen (at_ 0x0200 0x00 0x00 0x00 0xFE 0x04 [0x60] [(0x01FF, 0x12)])
      [] =
    some ⟨0x00, 0x00, 0x00, 0xFF, 0x04, 0x0201, 0, some ⟨.stackUnderflow, 0x60, 0x0200⟩, []⟩ := by
  decide
theorem test_V93_jmp :
    seen (at_ 0x0200 0x00 0x00 0x00 0xFF 0x04 [0x4C, 0xFF, 0x7F] [])
      [] =
    some ⟨0x00, 0x00, 0x00, 0xFF, 0x04, 0x7FFF, 3, none, []⟩ := by
  decide
theorem test_V94_bcc :
    seen (at_ 0x7FFE 0x00 0x00 0x00 0xFF 0x04 [0x90, 0x02] [])
      [] =
    some ⟨0x00, 0x00, 0x00, 0xFF, 0x04, 0x8002, 3, none, []⟩ := by
  decide
theorem test_V96_bit :
    seen (at_ 0x0200 0x80 0x00 0x00 0xFF 0x04 [0x24, 0x10] [(0x0010, 0xC0)])
      [] =
    some ⟨0x80, 0x00, 0x00, 0xFF, 0xC4, 0x0202, 3, none, []⟩ := by
  decide
theorem test_V99_bit :
    seen (at_ 0x0200 0xFF 0x00 0x00 0xFF 0xC4 [0x2C, 0x00, 0x03] [(0x0300, 0x3F)])
      [] =
    some ⟨0xFF, 0x00, 0x00, 0xFF, 0x04, 0x0203, 4, none, []⟩ := by
  decide
theorem test_V101_jmp :
    seen (at_ 0x0200 0x00 0x00 0x00 0xFF 0x04 [0x4C, 0x34, 0x12] [])
      [] =
    some ⟨0x00, 0x00, 0x00, 0xFF, 0x04, 0x1234, 3, none, []⟩ := by
  decide
theorem test_V104_jmp :
    seen (at_ 0x0400 0x00 0x00 0x00 0xFF 0x04 [0x6C, 0xFF, 0x02] [(0x0200, 0x56), (0x02FF, 0x34), (0x0300, 0x12)])
      [] =
    some ⟨0x00, 0x00, 0x00, 0xFF, 0x04, 0x1234, 5, none, []⟩ := by
  decide
theorem test_V105_jmp :
    seen (at_ 0x0200 0x00 0x00 0x00 0xFF 0x04 [0x6C, 0xFF, 0xFF] [(0x0000, 0x06), (0xFFFF, 0x78)])
      [] =
    some ⟨0x00, 0x00, 0x00, 0xFF, 0x04, 0x0678, 5, none, []⟩ := by
  decide
theorem test_V106_sty :
    seen (at_ 0x0200 0x00 0x00 0x5A 0xFF 0x04 [0x84, 0x10] [])
      [0x0010] =
    some ⟨0x00, 0x00, 0x5A, 0xFF, 0x04, 0x0202, 3, none, [0x5A]⟩ := by
  decide
theorem test_V108_sty :
    seen (at_ 0x0200 0x00 0x20 0x77 0xFF 0x04 [0x94, 0xF0] [])
      [0x0010] =
    some ⟨0x00, 0x20, 0x77, 0xFF, 0x04, 0x0202, 4, none, [0x77]⟩ := by
  decide
theorem test_V110_ldy :
    seen (at_ 0x0200 0x00 0x00 0x00 0xFF 0x04 [0xA4, 0x10] [(0x0010, 0x80)])
      [] =
    some ⟨0x00, 0x00, 0x80, 0xFF, 0x84, 0x0202, 3, none, []⟩ := by
  decide
theorem test_V112_ldy :
    seen (at_ 0x0200 0x00 0x05 0x00 0xFF 0x04 [0xB4, 0x10] [(0x0015, 0x01)])
      [] =
    some ⟨0x00, 0x05, 0x01, 0xFF, 0x04, 0x0202, 4, none, []⟩ := by
  decide
theorem test_V114_cpy :
    seen (at_ 0x0200 0x00 0x00 0x10 0xFF 0x04 [0xC0, 0x20] [])
      [] =
    some ⟨0x00, 0x00, 0x10, 0xFF, 0x84, 0x0202, 2, none, []⟩ := by
  decide
theorem test_V116_cpy :
    seen (at_ 0x0200 0x00 0x00 0x00 0xFF 0x04 [0xCC, 0x00, 0x03] [(0x0300, 0x80)])
      [] =
    some ⟨0x00, 0x00, 0x00, 0xFF, 0x84, 0x0203, 4, none, []⟩ := by
  decide
theorem test_V118_cpx :
    seen (at_ 0x0200 0x00 0x7F 0x00 0xFF 0x04 [0xE4, 0x10] [(0x0010, 0x80)])
      [] =
    some ⟨0x00, 0x7F, 0x00, 0xFF, 0x84, 0x0202, 3, none, []⟩ := by
  decide
theorem test_V120_lda :
    seen (at_ 0x0200 0x00 0x00 0x00 0xFF 0x04 [0xA9, 0x80] [])
      [] =
    some ⟨0x80, 0x00, 0x00, 0xFF, 0x84, 0x0202, 2, none, []⟩ := by
  decide
theorem test_V122_lda :
    seen (at_ 0x0200 0x00 0x00 0x00 0xFF 0x04 [0xA5, 0x10] [(0x0010, 0x42)])
      [] =
    some ⟨0x42, 0x00, 0x00, 0xFF, 0x04, 0x0202, 3, none, []⟩ := by
  decide
theorem test_V124_lda :
    seen (at_ 0x0200 0x00 0x00 0x00 0xFF 0x04 [0xAD, 0x34, 0x12] [(0x1234, 0xFF)])
      [] =
    some ⟨0xFF, 0x00, 0x00, 0xFF, 0x84, 0x0203, 4, none, []⟩ := by
  decide
theorem test_V127_lda :
    seen (at_ 0x0200 0x00 0x04 0x00 0xFF 0x04 [0xA1, 0x20] [(0x0024, 0x74), (0x0025, 0x20), (0x2074, 0xAB)])
      [] =
    some ⟨0xAB, 0x04, 0x00, 0xFF, 0x84, 0x0202, 6, none, []⟩ := by
  decide
theorem test_V129_lda :
    seen (at_ 0x0200 0x00 0x00 0x00 0xFF 0x04 [0xA1, 0xFF] [(0x0000, 0x04), (0x00FF, 0x00), (0x0100, 0x03), (0x0300, 0x21), (0x0400, 0x22)])
      [] =
    some ⟨0x21, 0x00, 0x00, 0xFF, 0x04, 0x0202, 6, none, []⟩ := by
  decide
theorem test_V130_lda :
    seen (at_ 0x0200 0x00 0x00 0x10 0xFF 0x04 [0xB1, 0x86] [(0x0086, 0xF8), (0x0087, 0x40), (0x4108, 0x5A)])
      [] =
    some ⟨0x5A, 0x00, 0x10, 0xFF, 0x04, 0x0202, 5, none, []⟩ := by
  decide
theorem test_V131_lda :
    seen (at_ 0x0200 0x00 0x00 0xFF 0xFF 0x04 [0xB1, 0x10] [(0x0001, 0x66), (0x0010, 0x02), (0x0011, 0xFF)])
      [] =
    some ⟨0x66, 0x00, 0xFF, 0xFF, 0x04, 0x0202, 5, none, []⟩ := by
  decide
theorem test_V132_sta :
    seen (at_ 0x0200 0x42 0x05 0x00 0xFF 0x04 [0x9D, 0x00, 0x02] [])
      [0x0205] =
    some ⟨0x42, 0x05, 0x00, 0xFF, 0x04, 0x0203, 5, none, [0x42]⟩ := by
  decide
theorem test_V134_sta :
    seen (at_ 0x0200 0x11 0xFF 0x00 0xFF 0x04 [0x95, 0x10] [])
      [0x000F] =
    some ⟨0x11, 0xFF, 0x00, 0xFF, 0x04, 0x0202, 4, none, [0x11]⟩ := by
  decide
theorem test_V138_sta :
    seen (at_ 0x0200 0x15 0x00 0x02 0xFF 0x04 [0x91, 0x20] [(0x0020, 0x00), (0x0021, 0x03)])
      [0x0302] =
    some ⟨0x15, 0x00, 0x02, 0xFF, 0x04, 0x0202, 6, none, [0x15]⟩ := by
  decide
theorem test_V140_ora :
    seen (at_ 0x0200 0x0F 0x00 0x00 0xFF 0x04 [0x09, 0xF0] [])
      [] =
    some ⟨0xFF, 0x00, 0x00, 0xFF, 0x84, 0x0202, 2, none, []⟩ := by
  decide
theorem test_V143_and :
    seen (at_ 0x0200 0xFF 0x01 0x00 0xFF 0x04 [0x3D, 0x00, 0x03] [(0x0301, 0x80)])
      [] =
    some ⟨0x80, 0x01, 0x00, 0xFF, 0x84, 0x0203, 4, none, []⟩ := by
  decide
theorem test_V145_eor :
    seen (at_ 0x0200 0x5A 0x00 0x00 0xFF 0x04 [0x51, 0x10] [(0x0010, 0x00), (0x0011, 0x03), (0x0300, 0x5A)])
      [] =
    some ⟨0x00, 0x00, 0x00, 0xFF, 0x06, 0x0202, 5, none, []⟩ := by
  decide
theorem test_V147_cmp :
    seen (at_ 0x0200 0x00 0x00 0x00 0xFF 0x04 [0xC9, 0x01] [])
      [] =
    some ⟨0x00, 0x00, 0x00, 0xFF, 0x84, 0x0202, 2, none, []⟩ := by
  decide
theorem test_V148_cmp :
    seen (at_ 0x0200 0x80 0x00 0x00 0xFF 0x4C [0xC5, 0x10] [(0x0010, 0x7F)])
      [] =
    some ⟨0x80, 0x00, 0x00, 0xFF, 0x4D, 0x0202, 3, none, []⟩ := by
  decide
theorem test_V155_adc :
    seen (at_ 0x0200 0xFF 0x00 0x00 0xFF 0x01 [0x69, 0xFF] [])
      [] =
    some ⟨0xFF, 0x00, 0x00, 0xFF, 0x81, 0x0202, 2, none, []⟩ := by
  decide
theorem test_V160_adc :
    seen (at_ 0x0200 0x99 0x00 0x00 0xFF 0x08 [0x69, 0x01] [])
      [] =
    some ⟨0x00, 0x00, 0x00, 0xFF, 0x89, 0x0202, 2, none, []⟩ := by
  decide
theorem test_V172_sbc :
    seen (at_ 0x0200 0xFF 0x00 0x00 0xFF 0x01 [0xE9, 0x00] [])
      [] =
    some ⟨0xFF, 0x00, 0x00, 0xFF, 0xC1, 0x0202, 2, none, []⟩ := by
  decide
theorem test_V178_sbc :
    seen (at_ 0x0200 0x10 0x00 0x00 0xFF 0x09 [0xE9, 0x20] [])
      [] =
    some ⟨0x90, 0x00, 0x00, 0xFF, 0xC8, 0x0202, 2, none, []⟩ := by
  decide
theorem test_V183_adc :
    seen (at_ 0x0200 0x01 0x00 0x00 0xFF 0x01 [0x65, 0x10] [(0x0010, 0x02)])
      [] =
    some ⟨0x04, 0x00, 0x00, 0xFF, 0x00, 0x0202, 3, none, []⟩ := by
  decide
theorem test_V184_sbc :
    seen (at_ 0x0200 0x05 0x02 0x00 0xFF 0x01 [0xE1, 0x10] [(0x0012, 0x00), (0x0013, 0x03), (0x0300, 0x03)])
      [] =
    some ⟨0x02, 0x02, 0x00, 0xFF, 0x01, 0x0202, 6, none, []⟩ := by
  decide
theorem test_V186_asl :
    seen (at_ 0x0200 0x80 0x00 0x00 0xFF 0x01 [0x0A] [])
      [] =
    some ⟨0x00, 0x00, 0x00, 0xFF, 0x03, 0x0201, 2, none, []⟩ := by
  decide
theorem test_V188_asl :
    seen (at_ 0x0200 0x00 0x01 0x00 0xFF 0x04 [0x1E, 0x00, 0x03] [(0x0301, 0xFF)])
      [0x0301] =
    some ⟨0x00, 0x01, 0x00, 0xFF, 0x85, 0x0203, 7, none, [0xFE]⟩ := by
  decide
theorem test_V190_rol :
    seen (at_ 0x0200 0x00 0x00 0x00 0xFF 0x01 [0x2A] [])
      [] =
    some ⟨0x01, 0x00, 0x00, 0xFF, 0x00, 0x0201, 2, none, []⟩ := by
  decide
theorem test_V191_rol :
    seen (at_ 0x0200 0x00 0x00 0x00 0xFF 0x01 [0x26, 0x10] [(0x0010, 0x40)])
      [0x0010] =
    some ⟨0x00, 0x00, 0x00, 0xFF, 0x80, 0x0202, 5, none, [0x81]⟩ := by
  decide
theorem test_V194_lsr :
    seen (at_ 0x0200 0x01 0x00 0x00 0xFF 0x80 [0x4A] [])
      [] =
    some ⟨0x00, 0x00, 0x00, 0xFF, 0x03, 0x0201, 2, none, []⟩ := by
  decide
theorem test_V195_lsr :
    seen (at_ 0x0200 0x00 0x01 0x00 0xFF 0x04 [0x56, 0x10] [(0x0011, 0xFF)])
      [0x0011] =
    some ⟨0x00, 0x01, 0x00, 0xFF, 0x05, 0x0202, 6, none, [0x7F]⟩ := by
  decide
theorem test_V196_ror :
    seen (at_ 0x0200 0x02 0x00 0x00 0xFF 0x01 [0x6A] [])
      [] =
    some ⟨0x81, 0x00, 0x00, 0xFF, 0x80, 0x0201, 2, none, []⟩ := by
  decide
theorem test_V198_ror :
    seen (at_ 0x0200 0x00 0x00 0x00 0xFF 0x01 [0x6E, 0x00, 0x03] [(0x0300, 0x00)])
      [0x0300] =
    some ⟨0x00, 0x00, 0x00, 0xFF, 0x80, 0x0203, 6, none, [0x80]⟩ := by
  decide
theorem test_V200_stx :
    seen (at_ 0x0200 0x00 0x07 0x02 0xFF 0x04 [0x96, 0x10] [])
      [0x0012] =
    some ⟨0x00, 0x07, 0x02, 0xFF, 0x04, 0x0202, 4, none, [0x07]⟩ := by
  decide
theorem test_V205_ldx :
    seen (at_ 0x0200 0x00 0x00 0x01 0xFF 0x04 [0xB6, 0xFF] [(0x0000, 0x21)])
      [] =
    some ⟨0x00, 0x21, 0x01, 0xFF, 0x04, 0x0202, 4, none, []⟩ := by
  decide
theorem test_V207_ldx :
    seen (at_ 0x0200 0x00 0x00 0x01 0xFF 0x04 [0xBE, 0xFF, 0x02] [(0x0300, 0x90)])
      [] =
    some ⟨0x00, 0x90, 0x01, 0xFF, 0x84, 0x0203, 4, none, []⟩ := by
  decide
theorem test_V208_dec :
    seen (at_ 0x0200 0x00 0x00 0x00 0xFF 0x04 [0xC6, 0x10] [])
      [0x0010] =
    some ⟨0x00, 0x00, 0x00, 0xFF, 0x84, 0x0202, 5, none, [0xFF]⟩ := by
  decide
theorem test_V209_dec :
    seen (at_ 0x0200 0x00 0x00 0x00 0xFF 0x01 [0xCE, 0x00, 0x03] [(0x0300, 0x01)])
      [0x0300] =
    some ⟨0x00, 0x00, 0x00, 0xFF, 0x03, 0x0203, 6, none, [0x00]⟩ := by
  decide
theorem test_V214_inc :
    seen (at_ 0x0200 0x00 0xF0 0x00 0xFF 0x04 [0xF6, 0x10] [(0x0000, 0x0F)])
      [0x0000] =
    some ⟨0x00, 0xF0, 0x00, 0xFF, 0x04, 0x0202, 6, none, [0x10]⟩ := by
  decide
theorem test_V216_inc :
    seen (at_ 0x0200 0x00 0x00 0x00 0xFF 0x04 [0xEE, 0x01, 0x02] [])
      [0x0201] =
    some ⟨0x00, 0x00, 0x00, 0xFF, 0x04, 0x0203, 6, none, [0x02]⟩ := by
  decide

/-! ## Callout vectors: the handler's effect written out, "M[0x00F0] <- A; X <- X + 1" -/

theorem test_V88_jsr_callout :
    view 6 [0x00F0, 0x01FE, 0x01FF]
      (calloutWith ⟨0x48, 0x01, 0x00, 0xFD, Flags.unpack 0x04, [(0x00F0, 0x48)]⟩ 0x20 0x0200
        (afterJsrPush (at_ 0x0200 0x48 0x00 0x00 0xFF 0x04 [0x20, 0xD2, 0xFF] []))) =
    some ⟨0x48, 0x01, 0x00, 0xFF, 0x04, 0x0203, 6, none, [0x48, 0x02, 0x02]⟩ := by
  decide
theorem test_V89_jmp_callout :
    view 3 [0x00F0]
      (calloutWith ⟨0x49, 0x01, 0x00, 0xFD, Flags.unpack 0x04, [(0x00F0, 0x49)]⟩ 0x4C 0x0200
        (at_ 0x0203 0x49 0x00 0x00 0xFD 0x04 [] [(0x01FE, 0x33), (0x01FF, 0x12)])) =
    some ⟨0x49, 0x01, 0x00, 0xFF, 0x04, 0x1234, 3, none, [0x49]⟩ := by
  decide
theorem test_V91_jmp_callout_underflow :
    view 0 [0x00F0]
      (calloutWith ⟨0x4B, 0x01, 0x00, 0xFF, Flags.unpack 0x04, [(0x00F0, 0x4B)]⟩ 0x4C 0x0200
        (at_ 0x0203 0x4B 0x00 0x00 0xFF 0x04 [] [])) =
    some ⟨0x4B, 0x01, 0x00, 0xFF, 0x04, 0x0203, 0, some ⟨.stackUnderflow, 0x4C, 0x0200⟩, [0x4B]⟩ := by
  decide
theorem test_V92_handler_rewrites_return :
    view 6 [0x01FE, 0x01FF]
      (calloutWith ⟨0x00, 0x00, 0x00, 0xFD, Flags.unpack 0x04, [(0x01FF, 0x04), (0x01FE, 0xFF)]⟩ 0x20 0x0200
        (afterJsrPush (base [0x20, 0x00, 0x80]))) =
    some ⟨0x00, 0x00, 0x00, 0xFF, 0x04, 0x0500, 6, none, [0xFF, 0x04]⟩ := by
  decide
/-- JSR to a registered address runs the handler; to 0x9000, which has none, it is refused (60_exceptions.md R314). -/
theorem test_jsr_callout_is_taken :
    step (withHandler (base [0x20, 0xD2, 0xFF])) =
      calloutWith (Config.handlerEffect 0 0xFFD2 (afterJsrPush (withHandler (base [0x20, 0xD2, 0xFF]))).handlerView)
        0x20 0x0200 (afterJsrPush (withHandler (base [0x20, 0xD2, 0xFF]))) := by
  rfl
theorem test_jsr_callout_unhandled :
    step (withHandler (base [0x20, 0x00, 0x90])) = .refused (.calloutUnhandled 0x9000) := by
  rfl

/-! ## The host's two questions, and a store into the next step's code -/

theorem test_decodeTableWord : decodeTableWord 24 0x0300AD = some (.ldaAbs 0x0300) ∧ decodeTableWord 8 0x0300AD =
    some (.ldaAbs 0x0000) ∧ decodeTableWord 8 0x02 = none := by
  decide
theorem test_withFetchWord :
    seen (State.reset.withFetchWord 16 0x80A9) [] = some ⟨0x80, 0x00, 0x00, 0xFF, 0x84, 0x0002, 2, none, []⟩ := by
  decide
theorem test_decimal_invalid_runs :
    step (at_ 0x0200 0x1F 0x00 0x00 0xFF 0x08 [0x69, 0x01] []) = .next
      { at_ 0x0202 0x1F 0x00 0x00 0xFF 0x08 [] [(0x0200, 0x69), (0x0201, 0x01)] with
        a := (Config.bcdAdcInvalid 0x1F 0x01 false).1
        p := { Flags.unpack 0x08 with c := (Config.bcdAdcInvalid 0x1F 0x01 false).2 } } := by
  rfl
/-- The state with every entry of the base costs `n`. -/
def withCosts (n : Nat) (s : State) : State :=
  { s with cfg := { s.cfg with baseCycles := Vector.replicate 16 (Vector.replicate 16 n) } }
/-- What a run of at most `n` iterations ends in, seen; none where it goes on. -/
def ran (n : Nat) (budget : Int) (s : State) : Option Seen := (runWithin n budget s).bind (view 0 [])
/-- The base costs are the configuration's: at 3 each a budget of 4 buys two NOPs, at 1 each a budget of 2 does, and at 0
each it is not spent. -/
theorem test_run_other_costs :
    stepCost (withCosts 3 (base [0xEA])) = 3 ∧ stepCost (withCosts 1 (base [0xEA])) = 1 ∧
      ran 4 4 (withCosts 3 (base [0xEA, 0xEA, 0xEA])) = some ⟨0, 0, 0, 0xFF, 0x04, 0x0202, 0, none, []⟩ ∧
      ran 2 2 (withCosts 1 (base [0xEA, 0xEA, 0xEA])) = some ⟨0, 0, 0, 0xFF, 0x04, 0x0202, 0, none, []⟩ ∧
      ran 2 1 (withCosts 0 (base [0xEA, 0xEA])) = none := by
  decide
/-- The run loop stops on the budget (program P2 of spec/95_test_vectors.md, its first two instructions). -/
theorem test_run_budget :
    ran 3 3 (base [0xA2, 0x05, 0xA9, 0x00, 0x18]) = some ⟨0x00, 0x05, 0x00, 0xFF, 0x06, 0x0204, 0, none, []⟩ := by
  decide

/-! ## Witnesses: the hypotheses of every statement can be met, clause by clause and at the ends of its ranges -/

theorem witness_DecodeUndoesEncode :
    (Instr.beq (-128)).WellFormed ∧ (Instr.beq 127).WellFormed ∧ (Instr.staAby 0xFFFF).WellFormed := by
  decide
theorem witness_EncodeUndoesDecode : decode [0x30, 0x80, 0x77] = .instr (.bmi (-128)) [0x77] := by decide
theorem witness_OpcodeAloneGivesTheLength : (Instr.ldaImm 0x00).opcode = (Instr.ldaImm 0xFF).opcode := by decide
theorem witness_BranchOpcodesSelectFlagAndPolarity :
    (0x10 : Byte).toNat % 32 = 0x10 ∧ (0xF0 : Byte).toNat % 32 = 0x10 ∧
      decodeOpcode 0xD0 0x80 0x00 = some (.bne (-128)) ∧ (Instr.bne (-128)).form = .branch .zero false (-128) := by
  decide
theorem witness_StepRunsTheDecodedInstruction :
    (base [0xA9, 0x80]).Running ∧
      (let s := base [0xA9, 0x80]
       decode [s.read s.pc, s.read (s.pc + 1), s.read (s.pc + 2)] = .instr (.ldaImm 0x80) [0x00]) ∧
      ∃ t, exec (.ldaImm 0x80) (base [0xA9, 0x80]) = .next t :=
  ⟨rfl, by decide, _, rfl⟩
/-- The clause of the faulting instruction: PHA at SP = 0x00. -/
theorem witness_StepRunsTheDecodedInstruction_fault :
    (let s := at_ 0x0200 0 0 0 0x00 0 [0x48] []
     s.Running ∧ decode [s.read s.pc, s.read (s.pc + 1), s.read (s.pc + 2)] = .instr .pha [0x00, 0x00] ∧
      stepCost s = 0 ∧ ∃ t, exec .pha s = .next t ∧ t.halted = true) :=
  ⟨rfl, by decide, rfl, _, rfl, rfl⟩
theorem witness_IllegalOpcodeHaltsWithDecodeFault :
    (base [0xFA]).Running ∧ illegal ((base [0xFA]).read (base [0xFA]).pc).toNat = true := by
  decide
theorem witness_HaltedCoreDoesNothing : ((base []).halt .decodeFault 0xFF 0x0200).halted = true := by decide
theorem witness_OperandsComeFromTheBytesAfterTheOpcode :
    fetchDecode (base [0xA9, 0xFF]) = some (.ldaImm 0xFF) ∧ fetchDecode (base [0xA5, 0xFF]) = some (.ldaZp 0xFF) ∧
      fetchDecode (base [0xB5, 0xFF]) = some (.ldaZpx 0xFF) ∧ fetchDecode (base [0xB6, 0xFF]) = some (.ldxZpy 0xFF) ∧
      fetchDecode (base [0x96, 0x00]) = some (.stxZpy 0x00) ∧
      fetchDecode (base [0xAD, 0xFF, 0xFF]) = some (.ldaAbs 0xFFFF) ∧
      fetchDecode (base [0xBD, 0xFF, 0xFF]) = some (.ldaAbx 0xFFFF) ∧
      fetchDecode (base [0xB9, 0xFF, 0xFF]) = some (.ldaAby 0xFFFF) ∧
      fetchDecode (base [0x20, 0x00, 0x00]) = some (.jsr 0x0000) ∧
      fetchDecode (base [0x4C, 0xFF, 0xFF]) = some (.jmpAbs 0xFFFF) ∧
      fetchDecode (base [0x10, 0x80]) = some (.bpl (-128)) ∧ fetchDecode (base [0x10, 0x7F]) = some (.bpl 127) := by
  decide
theorem witness_PointersAreReadLittleEndian :
    fetchDecode (base [0xA1, 0xFF]) = some (.ldaIzx 0xFF) ∧ fetchDecode (base [0xB1, 0xFF]) = some (.ldaIzy 0xFF) ∧
      fetchDecode (base [0x6C, 0xFF, 0x02]) = some (.jmpInd 0x02FF) := by
  decide
theorem witness_MemoryTransactions : (base [0xEA]).mem.wf = true ∧ (0x0001 : Word) ≠ 0x0000 := by decide
/-- The stack pointers at which the stack statements change their answer. -/
theorem witness_StackPrimitives :
    (0x00 : Byte).toNat = 0 ∧ (0x01 : Byte).toNat = 1 ∧ 1 ≤ (0x01 : Byte).toNat ∧ 2 ≤ (0x02 : Byte).toNat ∧
      (0xFF : Byte).toNat = 255 ∧ (0xFE : Byte).toNat = 254 ∧ (0xFE : Byte).toNat ≤ 254 ∧
      (0xFD : Byte).toNat ≤ 253 := by
  decide
theorem witness_PushThenPopReturnsTheValue :
    (base []).mem.wf = true ∧ 1 ≤ (at_ 0 0 0 0 0x01 0 [] []).sp.toNat ∧ 2 ≤ (at_ 0 0 0 0 0x02 0 [] []).sp.toNat := by
  decide
theorem witness_LoadsAndTransfersSetZeroAndNegative :
    (base []).Running ∧ (∃ t, exec (.ldaImm 0x80) (base []) = .next t ∧ t.Running ∧
      loadedRegister (Instr.ldaImm 0x80).form t = some 0x80) ∧
    ∃ t, exec .txs (base []) = .next t :=
  ⟨rfl, ⟨_, rfl, rfl, rfl⟩, _, rfl⟩
theorem witness_PushesStoreOneByte : 1 ≤ (at_ 0 0 0 0 0x01 0 [] []).sp.toNat := by decide
theorem witness_PullsLoadOneByte : (at_ 0 0 0 0 0xFE 0 [] []).sp.toNat ≤ 254 := by decide
theorem witness_PushAndPullFaults :
    (at_ 0 0 0 0 0x00 0 [] []).sp = 0x00 ∧ (at_ 0 0 0 0 0xFF 0 [] []).sp = 0xFF := by
  decide
theorem witness_PhpThenPlpSetsBreakAndUnused : (base []).mem.wf = true ∧ 1 ≤ (base []).sp.toNat := by decide
theorem witness_BranchPenalties :
    (let s := at_ 0xFFFE 0 0 0 0 0x00 [] []
     flagOf .carry s.p ≠ true ∧ flagOf .carry s.p = false ∧
      (((s.pc.toNat + 2) % 65536 : Nat) + (2 : Int)) % 65536 / 256 = ((s.pc.toNat + 2) % 65536 / 256 : Nat) ∧
      (((s.pc.toNat + 2) % 65536 : Nat) + (-1 : Int)) % 65536 / 256 ≠ ((s.pc.toNat + 2) % 65536 / 256 : Nat)) ∧
      (Instr.bcc (-1)).form = .branch .carry false (-1) ∧ (Instr.bcs 2).form = .branch .carry true 2 ∧
      ∀ f pol d, Instr.nop.form ≠ .branch f pol d :=
  ⟨by decide, rfl, rfl, fun _ _ _ h => nomatch h⟩
theorem witness_BrkTakesTheTrap : 3 ≤ (at_ 0 0 0 0 0x03 0 [] []).sp.toNat := by decide
theorem witness_BrkFaultsPartWay :
    (at_ 0 0 0 0 0x00 0 [] []).sp = 0x00 ∧ (at_ 0 0 0 0 0x01 0 [] []).sp = 0x01 ∧
      (at_ 0 0 0 0 0x02 0 [] []).sp = 0x02 := by
  decide
theorem witness_JsrCallsOrFaults :
    2 ≤ (at_ 0 0 0 0 0x02 0 [] []).sp.toNat ∧ (base []).IsCode 0xFFFF ∧ (withHandler (base [])).IsCode 0x7FFF ∧
      ¬ (withHandler (base [])).IsCode 0x8000 ∧ (at_ 0 0 0 0 0x00 0 [] []).sp = 0x00 ∧
      (at_ 0 0 0 0 0x01 0 [] []).sp = 0x01 := by
  decide
theorem witness_RtiReturnsOrFaults :
    (at_ 0 0 0 0 0xFC 0 [] []).sp.toNat ≤ 0xFC ∧ (at_ 0 0 0 0 0xFF 0 [] []).sp = 0xFF ∧
      (at_ 0 0 0 0 0xFE 0 [] []).sp = 0xFE ∧ (at_ 0 0 0 0 0xFD 0 [] []).sp = 0xFD := by
  decide
theorem witness_RtsReturnsOrFaults :
    (at_ 0 0 0 0 0xFD 0 [] []).sp.toNat ≤ 0xFD ∧ (at_ 0 0 0 0 0xFF 0 [] []).sp = 0xFF ∧
      (at_ 0 0 0 0 0xFE 0 [] []).sp = 0xFE := by
  decide
theorem witness_JmpGoesToItsTarget :
    (base []).IsCode 0xFFFF ∧ (withHandler (base [])).IsCode 0x7FFF ∧
      (base []).IsCode (jumpTarget (.ind 0x02FF) (base [])) := by
  decide
theorem witness_CallsAndBreaksReturn :
    (base []).mem.wf = true ∧ 2 ≤ (base []).sp.toNat ∧ 3 ≤ (base []).sp.toNat ∧ (base []).IsCode 0x0300 := by
  decide
theorem witness_JumpsIntoTheCalloutRangeRunTheHandler :
    (let s := withHandler (at_ 0x0200 0 0 0 0xFF 0 [] [(0x0010, 0xD2), (0x0011, 0xFF)])
     2 ≤ s.sp.toNat ∧ ¬ s.IsCode 0x8000 ∧ ¬ s.IsCode 0xFFD2 ∧ 0xFFD2 ∈ s.cfg.handlers ∧ 0x8000 ∉ s.cfg.handlers ∧
      ¬ s.IsCode (jumpTarget (.ind 0x0010) s)) := by
  decide
theorem witness_CalloutReturnsThroughTheStack :
    (let e : HandlerEffect := ⟨0, 0, 0, 0xFD, Flags.unpack 0, [(0x00F0, 0x48)]⟩
     let s := base []
     (e.sp.toNat ≤ 0xFD ∧ 0xFE ≤ (0xFE : Byte).toNat ∧ s.mem.wf = true ∧ 2 ≤ s.sp.toNat ∧ e.sp = s.sp - 2) ∧
      ∀ c ∈ e.writes, c.1.toNat ≠ 0x100 + s.sp.toNat ∧ c.1.toNat ≠ 0xFF + s.sp.toNat) :=
  ⟨by decide, fun c hc => by rw [List.mem_singleton.1 hc]; decide⟩
theorem witness_LogicOnTheAccumulator :
    (Instr.oraImm 0x01).form = .read .ora (.imm 0x01) ∧ (Instr.andAby 0x01).form = .read .and (.mem (.aby 0x01)) ∧
      (Instr.eorIzx 0x01).form = .read .eor (.mem (.izx 0x01)) := by
  decide
theorem witness_LoadsCopyTheOperand :
    (Instr.ldaIzy 0x01).form = .read .lda (.mem (.izy 0x01)) ∧ (Instr.ldxZpy 0x01).form = .read .ldx (.mem (.zpy 0x01)) ∧
      (Instr.ldyAbx 0x01).form = .read .ldy (.mem (.abx 0x01)) := by
  decide
theorem witness_ComparesSetCarryZeroNegative :
    (Instr.cmpImm 0x01).form = .read .cmp (.imm 0x01) ∧ (Instr.cpxZp 0x01).form = .read .cpx (.mem (.zp 0x01)) ∧
      (Instr.cpyAbs 0x01).form = .read .cpy (.mem (.abs 0x01)) := by
  decide
theorem witness_BitTestsTheOperand :
    (Instr.bitZp 0x10).form = .read .bit (.mem (.zp 0x10)) ∧ (Instr.bitAbs 0x10).form = .read .bit (.mem (.abs 0x10)) := by
  decide
theorem witness_AdcAddsInBinary :
    (Instr.adcImm 0x50).form = .read .adc (.imm 0x50) ∧ (at_ 0 0x50 0 0 0 0x00 [] []).p.d = false := by
  decide
theorem witness_AdcAddsInDecimal :
    (let s := at_ 0 0x99 0 0 0 0x09 [] []
     (Instr.adcImm 0x99).form = .read .adc (.imm 0x99) ∧ s.p.d = true ∧ bcdValid s.a = true ∧
      bcdValid (operandOf (.imm 0x99) s) = true) := by
  decide
theorem witness_SbcSubtractsInBinary :
    (Instr.sbcImm 0xF0).form = .read .sbc (.imm 0xF0) ∧ (at_ 0 0x50 0 0 0 0x01 [] []).p.d = false := by
  decide
theorem witness_SbcSubtractsInDecimal :
    (let s := at_ 0 0x00 0 0 0 0x08 [] []
     (Instr.sbcImm 0x99).form = .read .sbc (.imm 0x99) ∧ s.p.d = true ∧ bcdValid s.a = true ∧
      bcdValid (operandOf (.imm 0x99) s) = true) := by
  decide
theorem witness_MalformedDecimalOperandsStillRun :
    (let s := at_ 0 0xA0 0 0 0 0x08 [] []
     s.p.d = true ∧ bcdValid s.a = false ∧ bcdValid (operandOf (.imm 0x0A) s) = false ∧
      (Instr.adcImm 0x0A).form = .read .adc (.imm 0x0A) ∧ (Instr.sbcImm 0x0A).form = .read .sbc (.imm 0x0A)) := by
  decide
theorem witness_StoresWriteTheRegister :
    (Instr.staIzy 0x20).form = .store .sta (.izy 0x20) ∧ (Instr.stxZpy 0x20).form = .store .stx (.zpy 0x20) ∧
      (Instr.styZpx 0x20).form = .store .sty (.zpx 0x20) := by
  decide
theorem witness_ShiftsReplaceTheirOperand :
    Instr.rorAcc.form = .shift .ror .acc ∧ (Instr.aslAbx 0x20).form = .shift .asl (.mem (.abx 0x20)) := by
  decide
theorem witness_DecAndIncRewriteMemory :
    (Instr.decZpx 0x20).form = .bump .dec (.zpx 0x20) ∧ (Instr.incAbs 0x20).form = .bump .inc (.abs 0x20) := by
  decide
theorem witness_OnlyTheListedInstructionsFault :
    (∃ t, exec .pha (at_ 0 0 0 0 0x00 0 [] []) = .next t ∧ t.halted = true) ∧
      (∃ t, exec .rts (at_ 0 0 0 0 0xFE 0 [] []) = .next t ∧ t.halted = true) ∧ (base []).Running :=
  ⟨⟨_, rfl, rfl⟩, ⟨_, rfl, rfl⟩, rfl⟩
theorem witness_RegistersChangeOnlyWhereListed :
    ∃ t, exec .tax (base []) = .next t ∧ t.callouts = (base []).callouts ∧ writesA Instr.tax.form = false ∧
      writesY Instr.tax.form = false ∧ writesSP Instr.tax.form = false ∧ writesX Instr.pla.form = false :=
  ⟨_, rfl, rfl, rfl, rfl, rfl, rfl⟩
theorem witness_FlagsChangeOnlyWhereListed :
    ∃ t, exec .clc (base []) = .next t ∧ t.callouts = (base []).callouts ∧ writesAllFlags Instr.clc.form = false ∧
      writesZN Instr.clc.form = false ∧ writesI Instr.clc.form = false ∧ writesD Instr.clc.form = false ∧
      writesB Instr.clc.form = false ∧ writesV Instr.clc.form = false ∧ writesC Instr.tax.form = false :=
  ⟨_, rfl, rfl, rfl, rfl, rfl, rfl, rfl, rfl, rfl⟩
theorem witness_NonStoringFormsLeaveMemory :
    storesTo Instr.rts.form = none ∧ pushes Instr.rts.form = 0 ∧
      ∃ t, exec .rts (base []) = .next t ∧ t.callouts = (base []).callouts :=
  ⟨rfl, rfl, _, rfl, rfl⟩
theorem witness_StoringFormsWriteOneAddress :
    storesTo (Instr.incZpx 0xFF).form = some (.zpx 0xFF) ∧
      (∃ t, exec (.incZpx 0xFF) (base []) = .next t) ∧ (0x0100 : Word) ≠ effectiveAddress (.zpx 0xFF) (base []) :=
  ⟨rfl, ⟨_, rfl⟩, by decide⟩
theorem witness_PushingFormsWriteOnlyTheirCells :
    1 ≤ pushes Instr.brk.form ∧
      (∃ t, exec .brk (at_ 0 0 0 0 0x02 0 [] []) = .next t ∧ t.callouts = 0) ∧
      ∀ k, k < pushes Instr.brk.form → k < (0x02 : Byte).toNat →
        (0x0100 : Word).toNat ≠ 0x100 + (0x02 : Byte).toNat - k :=
  ⟨by decide, ⟨_, rfl, rfl⟩, by decide⟩
theorem witness_OtherInstructionsGoPastThemselves :
    fallsThrough Instr.pha.form = true ∧ fallsThrough (Instr.decAbx 0x0300).form = true := by
  decide
theorem witness_OnlyUnhandledCalloutsAreRefused :
    mayCallOut Instr.rts.form = false ∧
      exec (.jmpAbs 0x9000) (withHandler (base [])) = .refused (.calloutUnhandled 0x9000) :=
  ⟨rfl, rfl⟩
theorem witness_StepKeepsTheInvariant :
    (base [0x48]).Inv ∧ ∃ t, step (base [0x48]) = .next t :=
  ⟨by decide, _, rfl⟩
theorem witness_StepKeepsTheParameters : ∃ t, step (withHandler (base [0xEA])) = .next t := ⟨_, rfl⟩
/-- The spec's table meets the premises on the costs. -/
theorem witness_CostsAtLeast : CostsAtLeast 1 (base []).cfg ∧ CostsAtLeast 2 (base []).cfg := by
  unfold CostsAtLeast; decide
theorem witness_RunIsRepeatedStep :
    (0 : Int) < 1 ∧ (base [0xEA]).Running ∧ (∃ r, RunsTo 1 (base [0xEA]) r) ∧ ∃ r, RunsTo 0 (base [0xEA]) r :=
  ⟨by decide, rfl, ⟨_, 1, rfl⟩, _, 0, rfl⟩
theorem witness_BaseCyclesMatchTheKindTable :
    decodeOpcode 0x02 0x00 0x00 = none ∧ decodeOpcode 0xFE 0x00 0x03 = some (.incAbx 0x0300) := by
  decide

end Sys2Proof.Tests
end

section
/-! PROOF. The state's own laws (10_state.md): the invariant and the parameters over every step, the flag byte, which
instructions write which register and flag, and where PC goes after those that do not jump. -/

namespace Sys2Proof

/-! ## How long an encoding is -/

theorem Addr.length_bytes (m : Addr) : m.bytes.length + 1 = m.length := by cases m <;> rfl

/-- The encoder writes as many bytes as the instruction is long (30_encoding.md R70). -/
theorem length_encode (i : Instr) : (encode i).length = i.length := by
  show i.form.operandBytes.length + 1 = i.form.length
  cases i.form with
  | read op src =>
    cases src
    · rfl
    · exact Addr.length_bytes _
  | shift op pl =>
    cases pl
    · rfl
    · exact Addr.length_bytes _
  | store op m | bump op m => exact Addr.length_bytes m
  | jmp j => cases j <;> rfl
  | implied | branch | brk | jsr | rti | rts => rfl

end Sys2Proof

namespace Sys2Proof.Machine
open Sys2Proof.Stated

/-! ## What a step leaves -/

theorem Quiet.refl (s : State) : Quiet s s := ⟨⟨rfl, rfl, rfl, id⟩, rfl⟩

/-- The three ends of a step: nothing when halted, a DecodeFault, or one instruction. -/
theorem step_next {s t : State} (h : step s = .next t) :
    s.halted = true ∧ t = s ∨
    s.Running ∧ fetchDecode s = none ∧ t = decodeFault (s.read s.pc) s ∨
    s.Running ∧ ∃ i, fetchDecode s = some i ∧ exec i s = .next t := by
  unfold step at h
  split at h
  · next hs => cases h; exact .inl ⟨hs, rfl⟩
  · next hs =>
    have hrun : s.Running := Bool.eq_false_of_not_eq_true hs
    split at h
    · next i hi => exact .inr (.inr ⟨hrun, i, hi, h⟩)
    · next hi => cases h; exact .inr (.inl ⟨hrun, hi, rfl⟩)

theorem exec_leaves {i : Instr} {s t : State} (h : exec i s = .next t) : Leaves (mayCallOut i.form) s t :=
  execForm_leaves ((exec_eq_execForm i s).symm.trans h)

/-- A step, whichever of its three ends it takes, leaves what a meaning leaves. -/
theorem step_leaves {s t : State} (h : step s = .next t) : ∃ jump, Leaves jump s t := by
  obtain ⟨-, rfl⟩ | ⟨-, -, rfl⟩ | ⟨-, i, -, hi⟩ := step_next h
  · exact ⟨false, (Quiet.refl _).leaves⟩
  · have past : Quiet s (s.advance 1) := quiet_registers s ..
    exact ⟨false, _, past.toKept, .inl past.callouts, .inr ⟨.decodeFault, s.read s.pc, rfl⟩⟩
  · exact ⟨_, exec_leaves hi⟩

theorem Leaves.cfg {jump : Bool} {s t : State} (h : Leaves jump s t) : t.cfg = s.cfg := by
  obtain ⟨u, hk, -, rfl | ⟨k, op, rfl⟩⟩ := h
  · exact hk.cfg
  · exact hk.cfg

/-- `halted` and `fault` change only together. -/
theorem Leaves.halted_fault {jump : Bool} {s t : State} (h : Leaves jump s t) :
    t.halted = s.halted ∧ t.fault = s.fault ∨ t.halted = true ∧ t.fault.isSome = true := by
  obtain ⟨u, hk, -, rfl | ⟨k, op, rfl⟩⟩ := h
  · exact .inl ⟨hk.halted, hk.fault⟩
  · exact .inr ⟨rfl, rfl⟩

theorem Leaves.wf {jump : Bool} {s t : State} (h : Leaves jump s t) (hs : s.mem.wf = true) : t.mem.wf = true := by
  obtain ⟨u, hk, -, rfl | ⟨k, op, rfl⟩⟩ := h
  · exact hk.wf hs
  · exact hk.wf hs

theorem Leaves.inv {jump : Bool} {s t : State} (h : Leaves jump s t) (hs : s.Inv) : t.Inv := by
  obtain ⟨hwf, hfault⟩ := hs
  refine ⟨h.wf hwf, ?_⟩
  obtain ⟨e1, e2⟩ | ⟨e1, e2⟩ := h.halted_fault
  · rw [e1, e2, hfault]
  · rw [e1, e2]

/-! ## The flag byte -/

theorem pack_toNat (p : Flags) :
    p.pack.toNat = p.c.toNat + 2 * p.z.toNat + 4 * p.i.toNat + 8 * p.d.toNat + 16 * p.b.toNat + 32 * p.u.toNat +
      64 * p.v.toNat + 128 * p.n.toNat := by
  simp only [Flags.pack, BitVec.ofBoolListBE, BitVec.toNat_cons', Nat.shiftLeft_eq, List.length_cons, List.length_nil,
    Nat.reduceAdd, Nat.reducePow, BitVec.toNat_ofNat, Nat.zero_mod]
  omega

@[simp] theorem unpack_pack (p : Flags) : Flags.unpack p.pack = p := by
  simp [Flags.unpack, Flags.pack, BitVec.ofBoolListBE, BitVec.getElem_cons]

@[simp] theorem pack_unpack (v : Byte) : (Flags.unpack v).pack = v := by
  refine BitVec.eq_of_getElem_eq fun k hk => ?_
  interval_cases k <;> simp [Flags.unpack, Flags.pack, BitVec.ofBoolListBE, BitVec.getElem_cons]

/-- `SetZN` is the statements' own `zn` (10_state.md R30). -/
theorem setZN_eq_zn (p : Flags) (v : Byte) : p.setZN v = zn p v := setZN_eq_numbers p v

/-! ## Who writes a register (10_state.md R22, R23) -/

/-- From `s` to `t` a shape wrote only the registers that the spec lists for it. -/
def RegistersAsListed (f : Form) (s t : State) : Prop :=
  (writesA f = false → t.a = s.a) ∧ (writesX f = false → t.x = s.x) ∧
    (writesY f = false → t.y = s.y) ∧ (writesSP f = false → t.sp = s.sp)

theorem registersAsListed_of_eq {f : Form} {s t : State} (ha : t.a = s.a) (hx : t.x = s.x) (hy : t.y = s.y)
    (hsp : t.sp = s.sp) : RegistersAsListed f s t :=
  ⟨fun _ => ha, fun _ => hx, fun _ => hy, fun _ => hsp⟩

theorem registersAsListed_of_stack {f : Form} {s t : State} (hf : writesSP f = true) (ha : t.a = s.a) (hx : t.x = s.x)
    (hy : t.y = s.y) : RegistersAsListed f s t :=
  ⟨fun _ => ha, fun _ => hx, fun _ => hy, fun h => by simp [hf] at h⟩

theorem execRead_registersAsListed {op : ReadOp} {src : Src} {s t : State} (h : execRead op src s = .next t) :
    RegistersAsListed (.read op src) s t := by
  cases op <;> cases h
  case ldx => exact ⟨fun _ => rfl, nofun, fun _ => rfl, fun _ => rfl⟩
  case ldy => exact ⟨fun _ => rfl, fun _ => rfl, nofun, fun _ => rfl⟩
  case cmp | cpx | cpy | bit => exact registersAsListed_of_eq rfl rfl rfl rfl
  all_goals exact ⟨nofun, fun _ => rfl, fun _ => rfl, fun _ => rfl⟩

theorem execImplied_registersAsListed {op : ImpliedOp} (hop : op ≠ .php ∧ op ≠ .plp ∧ op ≠ .pha ∧ op ≠ .pla)
    {s t : State} (h : execImplied op s = .next t) : RegistersAsListed (.implied op) s t := by
  cases op
  case php | plp | pha | pla => simp at hop
  all_goals cases h
  case txa | tya => exact ⟨nofun, fun _ => rfl, fun _ => rfl, fun _ => rfl⟩
  case inx | dex | tax | tsx => exact ⟨fun _ => rfl, nofun, fun _ => rfl, fun _ => rfl⟩
  case iny | dey | tay => exact ⟨fun _ => rfl, fun _ => rfl, nofun, fun _ => rfl⟩
  case txs => exact registersAsListed_of_stack rfl rfl rfl rfl
  all_goals exact registersAsListed_of_eq rfl rfl rfl rfl

/-- A handler that runs is counted, so an unchanged count rules that case out. -/
theorem not_ranHandler {opcode : Byte} {s t : State} (hc : t.callouts = s.callouts) : ¬ RanHandler opcode s t := by
  rintro ⟨h, -⟩
  omega

theorem exec_registersAsListed {i : Instr} {s t : State} (h : exec i s = .next t) (hc : t.callouts = s.callouts) :
    RegistersAsListed i.form s t := by
  cases exec_cases h with
  | push v hi ht =>
    have hf : writesSP i.form = true := by obtain ⟨rfl, -⟩ | ⟨rfl, -⟩ := hi <;> rfl
    obtain rfl | ⟨-, rfl⟩ := ht <;> exact registersAsListed_of_stack hf rfl rfl rfl
  | plp v hi ht => subst hi; obtain rfl | rfl := ht <;> exact registersAsListed_of_stack rfl rfl rfl rfl
  | pla v hi ht =>
    subst hi
    obtain rfl | rfl := ht
    · exact registersAsListed_of_eq rfl rfl rfl rfl
    · exact ⟨nofun, fun _ => rfl, fun _ => rfl, nofun⟩
  | brk m sp hi hm ht | rti sp p hi ht | rts sp hi ht =>
    subst hi
    obtain rfl | ⟨pc, rfl⟩ := ht <;> exact registersAsListed_of_stack rfl rfl rfl rfl
  | jsr w m sp hi hm ht =>
    subst hi
    obtain rfl | rfl | hr := ht
    · exact registersAsListed_of_stack rfl rfl rfl rfl
    · exact registersAsListed_of_stack rfl rfl rfl rfl
    · exact absurd hr (not_ranHandler hc)
  | jmp j hi ht =>
    obtain ⟨pc, rfl⟩ | hr := ht
    · exact registersAsListed_of_eq rfl rfl rfl rfl
    · exact absurd hr (not_ranHandler hc)
  | implied op hi hop ht => rw [hi]; exact execImplied_registersAsListed hop ht
  | read op src hi ht => rw [hi]; exact execRead_registersAsListed ht
  | shiftA op hi ht => subst ht; rw [hi]; exact ⟨nofun, fun _ => rfl, fun _ => rfl, fun _ => rfl⟩
  | branch f pol d pc hi ht | store op m hi ht | shiftM op m v hi ht | bump op m v hi ht =>
    subst ht; exact registersAsListed_of_eq rfl rfl rfl rfl

/-! ## Who writes a flag (10_state.md R27) -/

/-- From `p` to `q` a shape wrote only the flags that the spec lists for it; PLP and RTI, which write all, apart. -/
def FlagsAsListed (f : Form) (p q : Flags) : Prop :=
  (writesC f = false → q.c = p.c) ∧ (writesZN f = false → q.z = p.z ∧ q.n = p.n) ∧
    (writesI f = false → q.i = p.i) ∧ (writesD f = false → q.d = p.d) ∧
    (writesB f = false → q.b = p.b) ∧ q.u = p.u ∧ (writesV f = false → q.v = p.v)

theorem flagsAsListed_of_eq {f : Form} {p q : Flags} (h : q = p) : FlagsAsListed f p q := by
  subst h
  exact ⟨fun _ => rfl, fun _ => ⟨rfl, rfl⟩, fun _ => rfl, fun _ => rfl, fun _ => rfl, rfl, fun _ => rfl⟩

theorem setZN_flagsAsListed {f : Form} (hf : writesZN f = true) (p : Flags) (v : Byte) :
    FlagsAsListed f p (p.setZN v) := by
  simp [FlagsAsListed, hf]

theorem setBreak_flagsAsListed {f : Form} (hf : writesB f = true) (p : Flags) :
    FlagsAsListed f p { p with b := true } := by
  simp [FlagsAsListed, hf]

theorem shiftFlags_flagsAsListed (op : ShiftOp) (pl : Place) (v : Byte) (p : Flags) :
    FlagsAsListed (.shift op pl) p (shiftFlags op v p) := by
  simp [FlagsAsListed, shiftFlags, writesC, writesZN]

theorem execRead_flagsAsListed {op : ReadOp} {src : Src} {s t : State} (h : execRead op src s = .next t) :
    FlagsAsListed (.read op src) s.p t.p := by
  cases op <;> cases h
  case ora | and | eor | lda | ldx | ldy => exact setZN_flagsAsListed rfl s.p _
  case cmp | cpx | cpy => simp [FlagsAsListed, writesC, writesZN, compareFlags]
  case adc => simp [FlagsAsListed, writesC, writesZN, writesV, adcFlags]
  case sbc => simp [FlagsAsListed, writesC, writesZN, writesV, sbcFlags]
  case bit => simp [FlagsAsListed, writesZN, writesV, bitFlags]

theorem execImplied_flagsAsListed {op : ImpliedOp} (hop : op ≠ .php ∧ op ≠ .plp ∧ op ≠ .pha ∧ op ≠ .pla)
    {s t : State} (h : execImplied op s = .next t) : FlagsAsListed (.implied op) s.p t.p := by
  cases op
  case php | plp | pha | pla => simp at hop
  all_goals cases h
  case dey | iny | inx | dex | tya | tay | txa | tax | tsx => exact setZN_flagsAsListed rfl s.p _
  case txs | nop => exact flagsAsListed_of_eq rfl
  all_goals simp [FlagsAsListed, writesC, writesI, writesD, writesV]

theorem exec_flagsAsListed {i : Instr} {s t : State} (h : exec i s = .next t) (hc : t.callouts = s.callouts)
    (hall : writesAllFlags i.form = false) : FlagsAsListed i.form s.p t.p := by
  cases exec_cases h with
  | plp v hi | rti sp p hi => subst hi; cases hall
  | pla v hi ht =>
    subst hi
    obtain rfl | rfl := ht
    · exact flagsAsListed_of_eq rfl
    · exact setZN_flagsAsListed rfl s.p v
  | push v hi ht => obtain rfl | ⟨-, rfl⟩ := ht <;> exact flagsAsListed_of_eq rfl
  | brk m sp hi hm ht => subst hi; obtain rfl | ⟨pc, rfl⟩ := ht <;> exact setBreak_flagsAsListed rfl s.p
  | rts sp hi ht => obtain rfl | ⟨pc, rfl⟩ := ht <;> exact flagsAsListed_of_eq rfl
  | jsr w m sp hi hm ht =>
    obtain rfl | rfl | hr := ht
    · exact flagsAsListed_of_eq rfl
    · exact flagsAsListed_of_eq rfl
    · exact absurd hr (not_ranHandler hc)
  | jmp j hi ht =>
    obtain ⟨pc, rfl⟩ | hr := ht
    · exact flagsAsListed_of_eq rfl
    · exact absurd hr (not_ranHandler hc)
  | implied op hi hop ht => rw [hi]; exact execImplied_flagsAsListed hop ht
  | read op src hi ht => rw [hi]; exact execRead_flagsAsListed ht
  | shiftA op hi ht => subst ht; rw [hi]; exact shiftFlags_flagsAsListed op .acc s.a s.p
  | shiftM op m v hi ht => subst ht; rw [hi]; exact shiftFlags_flagsAsListed op (.mem m) v s.p
  | bump op m v hi ht => subst ht; exact setZN_flagsAsListed (by rw [hi]; rfl) s.p v
  | branch f pol d pc hi ht | store op m hi ht => subst ht; exact flagsAsListed_of_eq rfl

/-! ## Loads and transfers (10_state.md R30) -/

theorem execRead_loaded {op : ReadOp} {src : Src} {s t : State} {r : Byte} (h : execRead op src s = .next t)
    (hr : loadedRegister (.read op src) t = some r) : t.p = s.p.setZN r := by
  cases op
  case lda | ldx | ldy => cases h; cases hr; rfl
  all_goals cases hr

theorem execImplied_loaded {op : ImpliedOp} (hop : op ≠ .php ∧ op ≠ .plp ∧ op ≠ .pha ∧ op ≠ .pla) {s t : State}
    {r : Byte} (h : execImplied op s = .next t) (hr : loadedRegister (.implied op) t = some r) :
    t.p = s.p.setZN r := by
  cases op
  case tax | tay | txa | tya | tsx => cases h; cases hr; rfl
  case pla => simp at hop
  all_goals cases hr

/-- A load or transfer that does not fault sets Z and N from the register it leaves. -/
theorem exec_loaded {i : Instr} {s t : State} {r : Byte} (h : exec i s = .next t) (ht : t.Running)
    (hr : loadedRegister i.form t = some r) : t.p = s.p.setZN r := by
  cases exec_cases h with
  | pla v hi e =>
    subst hi
    obtain rfl | rfl := e
    · cases ht
    · cases hr; rfl
  | implied op hi hop e => rw [hi] at hr; exact execImplied_loaded hop e hr
  | read op src hi e => rw [hi] at hr; exact execRead_loaded e hr
  | push v hi e => obtain ⟨rfl, -⟩ | ⟨rfl, -⟩ := hi <;> cases hr
  | plp v hi | brk m sp hi | rti sp p hi | rts sp hi | jsr w m sp hi => subst hi; cases hr
  | jmp j hi | branch f pol d pc hi | store op m hi | shiftA op hi | shiftM op m v hi | bump op m v hi =>
    rw [hi] at hr; cases hr

/-! ## PC past the instruction (10_state.md R40) -/

theorem settle_pc (opcode : Byte) (a0 : Word) (r : Stacked Unit) :
    ∃ t, r.settle opcode a0 = .next t ∧ t.pc = r.state.pc := by
  cases r <;> exact ⟨_, rfl, rfl⟩

theorem push8_pc (v : Byte) (s : State) : (push8 v s).state.pc = s.pc := by
  obtain e | ⟨-, e⟩ := push8_cases v s <;> rw [e] <;> rfl

/-- A pop and a statement that leaves PC alone leave PC alone. -/
theorem pop8_andThen_pc {f : Byte → State → Stacked Unit} (hf : ∀ v t, (f v t).state.pc = t.pc) (s : State) :
    ((pop8 s).andThen f).state.pc = s.pc := by
  obtain e | ⟨-, e⟩ := pop8_cases s <;> rw [e]
  · rfl
  · exact hf _ _

/-- An implied instruction, faulting or not, leaves PC at the next byte. -/
theorem execImplied_pc (op : ImpliedOp) (s : State) : ∃ t, execImplied op s = .next t ∧ t.pc = s.pc + 1 := by
  by_cases hop : op ≠ .php ∧ op ≠ .plp ∧ op ≠ .pha ∧ op ≠ .pla
  · obtain ⟨a, x, y, sp, p, e⟩ := execImplied_next hop s
    exact ⟨_, e, rfl⟩
  · have stack : op = .php ∨ op = .plp ∨ op = .pha ∨ op = .pla := by tauto
    obtain rfl | rfl | rfl | rfl := stack <;> obtain ⟨t, e, hpc⟩ := settle_pc _ s.pc _ <;>
      refine ⟨t, e, hpc.trans ?_⟩
    · exact push8_pc _ _
    · exact pop8_andThen_pc (fun _ _ => rfl) _
    · exact push8_pc _ _
    · exact pop8_andThen_pc (fun _ _ => rfl) _

/-- A shape that falls through answers a next state whose PC is past itself. -/
theorem execForm_past {f : Form} (hf : fallsThrough f = true) (opcode : Byte) (s : State) :
    ∃ t, execForm f opcode s = .next t ∧ t.pc = past f.length s := by
  cases f with
  | implied op => exact execImplied_pc op s
  | read op src =>
    obtain ⟨a, x, y, p, e⟩ := execRead_next op src s
    exact ⟨_, e, rfl⟩
  | store op m => exact ⟨_, rfl, rfl⟩
  | shift op pl => cases pl <;> exact ⟨_, rfl, rfl⟩
  | bump op m => exact ⟨_, rfl, rfl⟩
  | branch | brk | jsr | rti | rts | jmp => cases hf

theorem past_toNat (n : Nat) (s : State) : (past n s).toNat = (s.pc.toNat + n) % 65536 := by
  simp [past, BitVec.toNat_add]

end Sys2Proof.Machine

namespace Sys2Proof.Proofs
open Sys2Proof.Machine Sys2Proof.Stated

/-- Settles O54: a step leaves `Kept` states, with a fault raised on top or not, and both keep the invariant. -/
theorem stepKeepsTheInvariant : Obligations.StepKeepsTheInvariant := by
  intro s t hs h
  obtain ⟨_, hl⟩ := step_leaves h
  exact hl.inv hs

/-- Settles O55: memory is empty, the core runs, no fault is recorded. -/
theorem resetHasTheInvariant : Obligations.ResetHasTheInvariant := ⟨rfl, rfl⟩

/-- Settles O56, by what every step leaves. -/
theorem stepKeepsTheParameters : Obligations.StepKeepsTheParameters := by
  intro s t h
  obtain ⟨_, hl⟩ := step_leaves h
  exact hl.cfg

/-- Settles O15: the byte as a sum of its bits, and both round trips bit by bit. -/
theorem flagByteRoundTrips : Obligations.FlagByteRoundTrips := ⟨pack_toNat, unpack_pack, pack_unpack⟩

/-- Settles O16, by the cases of `exec` that load a register. -/
theorem loadsAndTransfersSetZeroAndNegative : Obligations.LoadsAndTransfersSetZeroAndNegative := by
  refine ⟨setZN_eq_zn, fun i s t r _ h ht hr => ?_, fun s t h => ?_⟩
  · rw [exec_loaded h ht hr, setZN_eq_zn]
  · cases h
    rfl

/-- Settles O47: the registers by the cases of `exec`, `halted` and `fault` by what every meaning leaves. -/
theorem registersChangeOnlyWhereListed : Obligations.RegistersChangeOnlyWhereListed := by
  intro i s t h hc
  obtain ⟨ha, hx, hy, hsp⟩ := exec_registersAsListed h hc
  exact ⟨ha, hx, hy, hsp, (exec_leaves h).halted_fault⟩

/-- Settles O48, by the cases of `exec` and the flag computation of each. -/
theorem flagsChangeOnlyWhereListed : Obligations.FlagsChangeOnlyWhereListed := fun _ _ _ => exec_flagsAsListed

/-- Settles O52: each falling-through shape advances PC by its length, a stack fault included. -/
theorem otherInstructionsGoPastThemselves : Obligations.OtherInstructionsGoPastThemselves := by
  intro i s hf
  obtain ⟨t, e, hpc⟩ := execForm_past hf i.opcode s
  exact ⟨t, (exec_eq_execForm i s).trans e, by rw [hpc, past_toNat, Instr.length], length_encode i⟩

end Sys2Proof.Proofs
end

section
/-! PROOF. Memory (20_memory.md): the two transactions, and which bytes one instruction leaves as they were. -/

namespace Sys2Proof.Machine
open Sys2Proof.Stated

/-! ## Words in memory, and states with the same memory -/

/-- A word read, in numbers: low byte first, the second address modulo 65536 (20_memory.md R53). -/
theorem State.read16_toNat (s : State) (a : Word) :
    (s.read16 a).toNat = (s.mem.read a.toNat).toNat + 256 * (s.mem.read ((a.toNat + 1) % 65536)).toNat := by
  have hsucc : (a + 1).toNat = (a.toNat + 1) % 65536 := by simp [BitVec.toNat_add]
  rw [State.read16, wordOf_toNat, read_eq_of_toNat rfl, read_eq_of_toNat hsucc]

theorem State.read_of_mem_eq {s t : State} (h : t.mem = s.mem) (a : Word) : t.read a = s.read a := by
  rw [State.read, State.read, h]

/-! ## What one instruction does to memory -/

/-- A storing form writes one byte, at its effective address in the state before the instruction. -/
theorem execForm_stores {f : Form} {m : Addr} (hm : storesTo f = some m) {opcode : Byte} {s t : State}
    (h : execForm f opcode s = .next t) : ∃ v, t.mem = (s.write (effectiveAddress m s) v).mem := by
  cases f with
  | store op m' | bump op m' =>
    cases hm
    cases h
    exact ⟨_, rfl⟩
  | shift op pl =>
    cases pl with
    | acc => cases hm
    | mem m' =>
      cases hm
      cases h
      exact ⟨_, rfl⟩
  | implied | branch | brk | jsr | rti | rts | jmp | read => cases hm

/-- A form that stores nothing and pushes nothing leaves memory as it was, unless a handler ran. -/
theorem exec_mem_eq {i : Instr} {s t : State} (hs : storesTo i.form = none) (hp : pushes i.form = 0)
    (h : exec i s = .next t) (hc : t.callouts = s.callouts) : t.mem = s.mem := by
  cases exec_cases h with
  | push v hi => obtain ⟨rfl, -⟩ | ⟨rfl, -⟩ := hi <;> cases hp
  | brk m sp hi | jsr w m sp hi => subst hi; cases hp
  | store op m hi | shiftM op m v hi | bump op m v hi => rw [hi] at hs; cases hs
  | plp v hi ht | pla v hi ht => obtain rfl | rfl := ht <;> rfl
  | rti sp p hi ht | rts sp hi ht => obtain rfl | ⟨pc, rfl⟩ := ht <;> rfl
  | jmp j hi ht =>
    obtain ⟨pc, rfl⟩ | hr := ht
    · rfl
    · exact absurd hr (not_ranHandler hc)
  | branch f pol d pc hi ht | shiftA op hi ht => subst ht; rfl
  | implied op hi hop ht =>
    obtain ⟨a, x, y, sp, p, e⟩ := execImplied_next hop s
    cases e.symm.trans ht
    rfl
  | read op src hi ht =>
    obtain ⟨a, x, y, p, e⟩ := execRead_next op src s
    cases e.symm.trans ht
    rfl

end Sys2Proof.Machine

namespace Sys2Proof.Proofs
open Sys2Proof.Machine Sys2Proof.Stated

/-- Settles O12: a read after a write at the same and at another address, and the word read in numbers. -/
theorem memoryTransactions : Obligations.MemoryTransactions := by
  intro s a b v hs
  exact ⟨State.read_write_same hs a v, fun hb => State.read_write_other hb v, ⟨_, rfl⟩, State.read16_toNat s a⟩

/-- Settles O49, by the cases of `exec`: those that write memory store, push, or run a handler. -/
theorem nonStoringFormsLeaveMemory : Obligations.NonStoringFormsLeaveMemory := by
  intro i s t a hs hp h hc
  exact State.read_of_mem_eq (exec_mem_eq hs hp h hc) a

/-- Settles O50: the one byte written is at the effective address, and a write leaves every other byte alone. -/
theorem storingFormsWriteOneAddress : Obligations.StoringFormsWriteOneAddress := by
  intro i m s t a hm h ha
  obtain ⟨v, e⟩ := execForm_stores hm ((exec_eq_execForm i s).symm.trans h)
  exact (State.read_of_mem_eq e a).trans (State.read_write_other ha v)

end Sys2Proof.Proofs
end

section
/-! PROOF. Encoding (30_encoding.md): decoder and encoder against each other, the Illegal opcodes, what an opcode alone
fixes, and where the operand bytes go. -/

namespace Sys2Proof
open Sys2Proof.Stated

/-! ## What decodes, in the encoder's terms -/

/-- An instruction's own opcode and operand bytes decode to it: the two bytes of a word are put together again, a
displacement that fits its byte is read back from it. -/
theorem decodeOpcode_of_operandBytes {i : Instr} {b1 b2 : Byte} (hi : i.WellFormed)
    (hb : i.form.operandBytes = [b1, b2].take (i.length - 1)) : decodeOpcode i.opcode b1 b2 = some i := by
  cases i <;> cases hb <;> simp only [Instr.opcode]
  case bpl d | bmi d | bvc d | bvs d | bcc d | bcs d | bne d | beq d =>
    conv_rhs => rw [← displacementOf_byte (hi d rfl)]
    rfl
  case jsr w | jmpAbs w | jmpInd w | bitAbs w | styAbs w | ldyAbs w | ldyAbx w | cpyAbs w | cpxAbs w
      | oraAbs w | oraAby w | oraAbx w | andAbs w | andAby w | andAbx w | eorAbs w | eorAby w | eorAbx w
      | adcAbs w | adcAby w | adcAbx w | staAbs w | staAby w | staAbx w | ldaAbs w | ldaAby w | ldaAbx w
      | cmpAbs w | cmpAby w | cmpAbx w | sbcAbs w | sbcAby w | sbcAbx w | aslAbs w | aslAbx w | rolAbs w | rolAbx w
      | lsrAbs w | lsrAbx w | rorAbs w | rorAbx w | stxAbs w | ldxAbs w | ldxAby w | decAbs w | decAbx w
      | incAbs w | incAbx w =>
    conv_rhs => rw [← wordOf_lo_hi w]
    rfl
  all_goals rfl

/-- The decoder said once, both ways: it answers the one well-formed instruction that has this opcode and whose operand
bytes are the first of the two given. -/
theorem decodeOpcode_eq_some_iff {op b1 b2 : Byte} {i : Instr} :
    decodeOpcode op b1 b2 = some i ↔
      i.WellFormed ∧ i.opcode = op ∧ i.form.operandBytes = [b1, b2].take (i.length - 1) := by
  constructor
  · intro h
    obtain ⟨hwf, hop, hpos, -, henc⟩ := decodeOpcode_spec h
    obtain ⟨n, hn⟩ : ∃ n, i.length = n + 1 := ⟨i.length - 1, by omega⟩
    rw [hn] at henc ⊢
    exact ⟨hwf, hop, (List.cons.inj henc).2⟩
  · rintro ⟨hwf, rfl, hb⟩
    exact decodeOpcode_of_operandBytes hwf hb

/-! ## Lengths -/

theorem Addr.length_bytes_le (m : Addr) : m.bytes.length ≤ 2 := by cases m <;> simp [Addr.bytes]

/-- At most two operand bytes (30_encoding.md R70). -/
theorem length_operandBytes_le (f : Form) : f.operandBytes.length ≤ 2 := by
  cases f with
  | read op src =>
    cases src
    · simp [Form.operandBytes]
    · exact Addr.length_bytes_le _
  | shift op pl =>
    cases pl
    · simp [Form.operandBytes]
    · exact Addr.length_bytes_le _
  | store op m | bump op m => exact Addr.length_bytes_le m
  | jmp j => cases j <;> simp [Form.operandBytes]
  | implied | branch | brk | jsr | rti | rts => simp [Form.operandBytes]

/-- The instruction is as long as its opcode byte and its operand bytes. -/
theorem length_operandBytes (i : Instr) : i.form.operandBytes.length + 1 = i.length := length_encode i

/-- The opcode alone, whatever bytes follow it, decodes to an instruction of the same length (30_encoding.md R70). -/
theorem length_decodeOpcode_opcode (i : Instr) (b1 b2 : Byte) :
    (decodeOpcode i.opcode b1 b2).map Instr.length = some i.length := by
  cases i <;> simp only [Instr.opcode] <;> rfl

/-! ## From three bytes to a list of them -/

/-- The two bytes that `decode` looks at are the list's own as far as the list goes. -/
theorem take_pair_getD {n : Nat} {l : List Byte} (hn : n ≤ 2) (hl : n ≤ l.length) :
    [l.getD 0 0, l.getD 1 0].take n = l.take n := by
  match n, l with
  | 0, _ => rfl
  | 1, _ :: _ => rfl
  | 2, _ :: _ :: _ => rfl

/-- `decode` on a list of bytes, in the encoder's terms. -/
theorem decode_eq_instr_iff {i : Instr} {bytes rest : List Byte} :
    decode bytes = .instr i rest ↔ i.WellFormed ∧ encode i ++ rest = bytes := by
  have hlen := length_operandBytes i
  have htwo := length_operandBytes_le i.form
  constructor
  · intro h
    obtain _ | ⟨op, tl⟩ := bytes
    · cases h
    obtain ⟨hop, hl, rfl⟩ := decode_eq_instr h
    obtain ⟨hwf, rfl, hb⟩ := decodeOpcode_eq_some_iff.mp hop
    rw [take_pair_getD (by omega) (by omega)] at hb
    exact ⟨hwf, by rw [encode, hb, List.cons_append, List.take_append_drop]⟩
  · rintro ⟨hwf, rfl⟩
    have hl : i.length - 1 = i.form.operandBytes.length := by omega
    have hop : decodeOpcode i.opcode ((i.form.operandBytes ++ rest).getD 0 0)
        ((i.form.operandBytes ++ rest).getD 1 0) = some i := by
      refine decodeOpcode_of_operandBytes hwf ?_
      rw [hl, take_pair_getD htwo (by simp), List.take_left]
    rw [encode, List.cons_append, decode_cons hop (by simp; omega), hl, List.drop_left]

/-! ## The Illegal opcodes (30_encoding.md R81) -/

/-- The five tests leave no instruction exactly for the listed opcodes, by the 256 opcodes. -/
theorem decodeOpcode_eq_none_iff (op b1 b2 : Byte) : decodeOpcode op b1 b2 = none ↔ illegal op.toNat = true := by
  have table : ∀ op : Byte, (decodeOpcode op 0 0).isSome = !illegal op.toNat := by decide
  rw [← Option.not_isSome_iff_eq_none, decodeOpcode_isSome op b1 b2 0 0, table, Bool.not_eq_true, Bool.not_eq_false']

/-- `decode` answers "Illegal" exactly when the opcode has no instruction; bytes that are missing are another error. -/
theorem decode_illegal_iff {op : Byte} {rest : List Byte} :
    decode (op :: rest) = .rejected (.illegalOpcode op) ↔ decodeOpcode op (rest.getD 0 0) (rest.getD 1 0) = none := by
  rw [decode]
  cases decodeOpcode op (rest.getD 0 0) (rest.getD 1 0) with
  | none => exact iff_of_true rfl rfl
  | some i =>
    dsimp only
    split_ifs <;> exact iff_of_false nofun nofun

/-! ## The branches (30_encoding.md R76) -/

/-- No opcode with low five bits 0b10000 meets the test for an implied one, which comes first. -/
theorem decodeOpcode_branch {op : Byte} (h : op.toNat % 32 = 0x10) (b1 b2 : Byte) :
    decodeOpcode op b1 b2 = decodeBranch op b1 := by
  have hlow : op.toNat % 16 = 0 := by omega
  have himp : isImpliedOpcode op = false := by simp [isImpliedOpcode, hlow]
  have hbr : isBranchOpcode op = true := by simp [isBranchOpcode, h]
  simp [decodeOpcode, himp, hbr]

/-- The branch table: bits 7..5 are selector and polarity. -/
theorem decodeBranch_form (op b1 : Byte) :
    ∃ i f, decodeBranch op b1 = some i ∧ selected (op.toNat / 64) = some f ∧
      i.form = .branch f (decide (op.toNat / 32 % 2 = 1)) b1.toInt := by
  have hlt : op.toNat / 32 < 8 := by omega
  have hsel : op.toNat / 64 = op.toNat / 32 / 2 := by omega
  unfold decodeBranch
  rw [hsel]
  generalize op.toNat / 32 = row at hlt
  interval_cases row <;> exact ⟨_, _, rfl, rfl, rfl⟩

/-- The opcode of every branch has low five bits 0b10000. -/
theorem opcode_of_branch {i : Instr} {f : BranchFlag} {polarity : Bool} {d : Int} (h : i.form = .branch f polarity d) :
    i.opcode.toNat % 32 = 0x10 := by
  cases i <;> cases h <;> simp [Instr.opcode]

theorem displacement_of_branch {i : Instr} {f : BranchFlag} {polarity : Bool} {d : Int}
    (h : i.form = .branch f polarity d) : i.displacement = some d := by
  cases i <;> cases h <;> rfl

end Sys2Proof

namespace Sys2Proof.Machine
open Sys2Proof.Stated

/-! ## The operand of the instruction at PC -/

/-- The operand bytes of a fetched instruction are those after its opcode, as many as it has. -/
theorem operandBytes_of_fetchDecode {s : State} {i : Instr} (h : fetchDecode s = some i) :
    i.form.operandBytes = [s.read (s.pc + 1), s.read (s.pc + 2)].take (i.form.length - 1) :=
  (decodeOpcode_eq_some_iff.mp h).2.2

/-- The operand bytes of an instruction with a memory operand are those of its mode. -/
theorem operandBytes_of_memOperand {f : Form} {m : Addr} (h : memOperand f = some m) :
    f.operandBytes = m.bytes ∧ f.length = m.length := by
  cases f with
  | read op src =>
    cases src with
    | imm v => cases h
    | mem m' => cases h; exact ⟨rfl, rfl⟩
  | shift op pl =>
    cases pl with
    | acc => cases h
    | mem m' => cases h; exact ⟨rfl, rfl⟩
  | store op m' | bump op m' => cases h; exact ⟨rfl, rfl⟩
  | implied | branch | brk | jsr | rti | rts | jmp => cases h

/-- A memory operand never adds to the cost: the one penalty is a branch's (70_reset_and_hazards.md R354). -/
theorem penalty_of_memOperand {i : Instr} {m : Addr} (h : memOperand i.form = some m) (s : State) :
    penalty i s = 0 := by
  unfold penalty
  split
  · next hf => rw [hf] at h; cases h
  · rfl

/-- Zero page,Y is a mode of LDX and STX only (30_encoding.md R80). -/
theorem form_of_memOperand_zpy {i : Instr} {d : Byte} (h : memOperand i.form = some (.zpy d)) :
    i.form = .read .ldx (.mem (.zpy d)) ∨ i.form = .store .stx (.zpy d) := by
  cases i <;> cases h
  case ldxZpy => exact .inl rfl
  case stxZpy => exact .inr rfl

/-- The bytes of a fetched memory mode are those at PC, as many as the mode has. -/
theorem memOperand_bytes {s : State} {i : Instr} {m : Addr} (hi : fetchDecode s = some i)
    (hm : memOperand i.form = some m) :
    m.bytes = [s.read (s.pc + 1), s.read (s.pc + 2)].take (m.length - 1) := by
  obtain ⟨hb, hl⟩ := operandBytes_of_memOperand hm
  rw [← hb, ← hl]
  exact operandBytes_of_fetchDecode hi

/-- A word whose low and high byte are given, in numbers. -/
theorem toNat_of_bytes {w : Word} {b1 b2 : Byte} (h : [loByte w, hiByte w] = [b1, b2]) :
    w.toNat = b1.toNat + 256 * b2.toNat := by
  cases h
  rw [← wordOf_toNat, wordOf_lo_hi]

/-- A displacement that fits, from its byte: two's complement (30_encoding.md R84). -/
theorem displacement_of_byte {d : Int} {b : Byte} (hd : displacementFits d) (h : displacementByte d = b) :
    d = if b.toNat < 128 then (b.toNat : Int) else b.toNat - 256 := by
  rw [← displacementOf_byte hd, h, displacementOf, BitVec.toInt_eq_toNat_cond]
  split <;> split <;> omega

end Sys2Proof.Machine

namespace Sys2Proof.Proofs
open Sys2Proof.Machine Sys2Proof.Stated

/-- Settles O2: `decode` answers an instruction exactly when the bytes are its encoding and what follows. -/
theorem decodeUndoesEncode : Obligations.DecodeUndoesEncode :=
  fun _ _ hi => decode_eq_instr_iff.mpr ⟨hi, rfl⟩

/-- Settles O3: the other direction of the same equivalence. -/
theorem encodeUndoesDecode : Obligations.EncodeUndoesDecode :=
  fun _ _ _ => decode_eq_instr_iff.mp

/-- Settles O4: `decode` rejects an opcode that the five tests leave without instruction, and those are the listed. -/
theorem illegalOpcodesAreTheListed : Obligations.IllegalOpcodesAreTheListed :=
  ⟨fun _ _ => decode_illegal_iff.trans (decodeOpcode_eq_none_iff ..), by decide⟩

/-- Settles O5: decoding the one opcode gives one length. -/
theorem opcodeAloneGivesTheLength : Obligations.OpcodeAloneGivesTheLength := by
  refine ⟨fun i => ⟨_, rfl, length_operandBytes_le i.form, (length_operandBytes i).symm⟩, fun i j h => ?_⟩
  have hi := length_decodeOpcode_opcode i 0 0
  rw [h, length_decodeOpcode_opcode j] at hi
  exact (Option.some.inj hi).symm

/-- Settles O6: the branch table, reached by every opcode with these low five bits, and the opcodes of the branches. -/
theorem branchOpcodesSelectFlagAndPolarity : Obligations.BranchOpcodesSelectFlagAndPolarity := by
  refine fun op b1 b2 => ⟨fun h => ?_, fun i f pol d h hf => ?_⟩
  · rw [decodeOpcode_branch h]
    exact decodeBranch_form op b1
  · obtain ⟨-, rfl, -⟩ := decodeOpcode_eq_some_iff.mp h
    exact opcode_of_branch hf

/-- Settles O8: nothing is fetched, so that the step is the DecodeFault. -/
theorem illegalOpcodeHaltsWithDecodeFault : Obligations.IllegalOpcodeHaltsWithDecodeFault := by
  intro s hs hill
  have hfetch : fetchDecode s = none := (decodeOpcode_eq_none_iff ..).mpr hill
  have hrun : s.halted = false := hs
  constructor
  · simp only [step, hrun, hfetch]
    rfl
  · simp only [stepCost, hrun, hfetch]
    rfl

/-- Settles O10: the operand bytes are those at PC, and each mode's address in numbers. -/
theorem operandsComeFromTheBytesAfterTheOpcode : Obligations.OperandsComeFromTheBytesAfterTheOpcode := by
  intro s i hi b1 b2
  obtain ⟨hwf, -, -⟩ := decodeOpcode_eq_some_iff.mp hi
  have hb := operandBytes_of_fetchDecode hi
  refine ⟨fun op v hf => ?_, fun m hm => ?_, fun w hw => ?_, fun f pol d hf => ?_⟩
  · rw [hf] at hb
    cases hb
    exact ⟨rfl, rfl, by rw [Instr.length, hf]; rfl⟩
  · have hbm := memOperand_bytes hi hm
    have hl : i.length = m.length := (operandBytes_of_memOperand hm).2
    intro ea
    refine ⟨penalty_of_memOperand hm s, ?_⟩
    have hea : ea = _ := effectiveAddress_toNat m s
    rw [hea, hl]
    refine ⟨?_, ?_, ?_, ?_, ?_, ?_⟩
    · rintro d rfl; cases hbm; exact ⟨rfl, rfl⟩
    · rintro d rfl; cases hbm; exact ⟨rfl, rfl⟩
    · rintro d rfl; cases hbm; exact ⟨rfl, rfl, form_of_memOperand_zpy hm⟩
    · rintro w rfl; exact ⟨toNat_of_bytes hbm, rfl⟩
    · rintro w rfl; exact ⟨by rw [← toNat_of_bytes hbm], rfl⟩
    · rintro w rfl; exact ⟨by rw [← toNat_of_bytes hbm], rfl⟩
  · rw [Instr.length]
    obtain hf | hf := hw <;> rw [hf] at hb ⊢ <;> exact ⟨toNat_of_bytes hb, rfl⟩
  · have hd : displacementFits d := hwf d (displacement_of_branch hf)
    rw [Instr.length]
    rw [hf] at hb ⊢
    exact ⟨displacement_of_byte hd (List.cons.inj hb).1, rfl⟩

/-- Settles O1, by running the decoder. -/
theorem specWordsDecode : Obligations.SpecWordsDecode := by
  unfold Obligations.SpecWordsDecode
  decide

end Sys2Proof.Proofs
end

section
/-! PROOF. Step and run (40_step_and_run.md): a step by what is fetched, and the loop of `run` against its own unfolding
and against repeated steps. -/

namespace Sys2Proof.Machine

/-! ## One step -/

theorem step_of_halted {s : State} (hs : s.halted = true) : step s = .next s := if_pos hs

theorem stepCost_of_halted {s : State} (hs : s.halted = true) : stepCost s = 0 := if_pos hs

theorem step_of_fetchDecode {s : State} {i : Instr} (hs : s.Running) (hi : fetchDecode s = some i) :
    step s = exec i s := by
  have hrun : s.halted = false := hs
  simp [step, hrun, hi]

/-- A step that runs an instruction costs 0 when the instruction faulted, else the instruction's cost. -/
theorem stepCost_of_exec {s t : State} {i : Instr} (hs : s.Running) (hi : fetchDecode s = some i)
    (h : exec i s = .next t) : stepCost s = if t.halted then 0 else instructionCost i s := by
  have hstep : step s = .next t := (step_of_fetchDecode hs hi).trans h
  have hrun : s.halted = false := hs
  simp [stepCost, hrun, hi, hstep]

theorem CostsAtLeast.of_step {k : Nat} {s t : State} (hc : CostsAtLeast k s.cfg) (h : step s = .next t) :
    CostsAtLeast k t.cfg := by
  have hcfg : t.cfg = s.cfg := Proofs.stepKeepsTheParameters s t h
  rwa [hcfg]

/-! ## The loop -/

theorem runsTo_ended {budget : Int} {s : State} (h : budget ≤ 0 ∨ s.halted = true) : RunsTo budget s (.next s) :=
  ⟨0, runWithin_ended h 0⟩

/-- A run ends in one way at most: within enough iterations for both ends. -/
theorem RunsTo.unique {budget : Int} {s : State} {r r' : Result} (h : RunsTo budget s r) (h' : RunsTo budget s r') :
    r = r' := by
  obtain ⟨n, hn⟩ := h
  obtain ⟨m, hm⟩ := h'
  have e := runWithin_mono (Nat.le_max_left n m) hn
  rw [runWithin_mono (Nat.le_max_right n m) hm] at e
  exact (Option.some.inj e).symm

theorem runsTo_iff_of_ended {budget : Int} {s : State} {r : Result} (h : budget ≤ 0 ∨ s.halted = true) :
    RunsTo budget s r ↔ r = .next s :=
  ⟨fun hr => hr.unique (runsTo_ended h), fun e => e ▸ runsTo_ended h⟩

/-- One more iteration never hurts, so an end can be asked for within at least one. -/
theorem runsTo_iff_succ {budget : Int} {s : State} {r : Result} :
    RunsTo budget s r ↔ ∃ n, runWithin (n + 1) budget s = some r :=
  ⟨fun ⟨n, h⟩ => ⟨n, runWithin_mono n.le_succ h⟩, fun ⟨n, h⟩ => ⟨n + 1, h⟩⟩

/-- A loop that goes on takes one step and is then the loop on what is left of the budget. -/
theorem runsTo_iff_of_running {budget : Int} {s : State} {r : Result} (h : ¬ (budget ≤ 0 ∨ s.halted = true)) :
    RunsTo budget s r ↔
      match step s with
      | .next t => RunsTo (budget - stepCost s) t r
      | .fault f => r = .fault f
      | .refused f => r = .refused f := by
  rw [runsTo_iff_succ]
  simp only [runWithin, if_neg h]
  cases step s with
  | next t => exact Iff.rfl
  | fault f | refused f => simp [eq_comm]

/-! ## How many steps a run takes (40_step_and_run.md R111, R112) -/

/-- What `n`, the number of steps of `run(budget)` from `s`, is bounded by. -/
structure StepsWithin (budget : Int) (s : State) (n : Nat) : Prop where
  none_of_ended : budget ≤ 0 ∨ s.halted = true → n = 0
  pos_of_running : 0 < budget → s.Running → 1 ≤ n
  le_half : CostsAtLeast 2 s.cfg → (n : Int) ≤ max 0 ((budget + 1) / 2)

theorem stepsWithin_zero {budget : Int} {s : State} (h : budget ≤ 0 ∨ s.halted = true) :
    StepsWithin budget s 0 where
  none_of_ended _ := rfl
  pos_of_running hb hs := by
    obtain hb' | hs' := h
    · omega
    · cases hs.symm.trans hs'
  le_half _ := Int.le_max_left ..

/-- A single step is within the bounds of any loop that goes on. -/
theorem stepsWithin_one {budget : Int} {s : State} (h : ¬ (budget ≤ 0 ∨ s.halted = true)) :
    StepsWithin budget s 1 where
  none_of_ended h' := absurd h' h
  pos_of_running _ _ := le_rfl
  le_half _ := by
    have hb : ¬ budget ≤ 0 := fun hb => h (.inl hb)
    omega

/-- One step before a run within the bounds: it halts the core, and no step follows, or it costs two of the budget. -/
theorem StepsWithin.succ {budget : Int} {s t : State} {n : Nat} (h : ¬ (budget ≤ 0 ∨ s.halted = true))
    (hstep : step s = .next t) (hn : StepsWithin (budget - stepCost s) t n) : StepsWithin budget s (n + 1) where
  none_of_ended h' := absurd h' h
  pos_of_running _ _ := n.succ_pos
  le_half hc := by
    obtain ⟨hb, hs⟩ := not_or.mp h
    cases ht : t.halted with
    | true =>
      have hzero : n = 0 := hn.none_of_ended (.inr ht)
      omega
    | false =>
      have hcost : 2 ≤ stepCost s := hc.le_stepCost (Bool.eq_false_of_not_eq_true hs) hstep ht
      have hhalf := hn.le_half (hc.of_step hstep)
      by_cases hleft : budget - stepCost s ≤ 0
      · have hzero : n = 0 := hn.none_of_ended (.inl hleft)
        omega
      · omega

theorem coreRun_one (s : State) : Host.Core.run Sys2Proof.core 1 s = step s := by
  have hcore : Sys2Proof.core.step s = step s := rfl
  simp only [Host.Core.run, hcore]
  cases step s <;> rfl

theorem coreRun_of_next {s t : State} (h : step s = .next t) (k : Nat) :
    Host.Core.run Sys2Proof.core (k + 1) s = Host.Core.run Sys2Proof.core k t := by
  have hcore : Sys2Proof.core.step s = .next t := h
  simp only [Host.Core.run, hcore]

/-- The loop is repeated `step()`: it ends where that many steps end. -/
theorem runWithin_eq_coreRun {n : Nat} {budget : Int} {s : State} {r : Result} (h : runWithin n budget s = some r) :
    ∃ k, r = Host.Core.run Sys2Proof.core k s ∧ StepsWithin budget s k := by
  induction n generalizing budget s with
  | zero =>
    rw [runWithin] at h
    split_ifs at h with hb
    exact ⟨0, (Option.some.inj h).symm, stepsWithin_zero hb⟩
  | succ n ih =>
    rw [runWithin] at h
    split_ifs at h with hb
    · exact ⟨0, (Option.some.inj h).symm, stepsWithin_zero hb⟩
    · cases hs : step s with
      | next t =>
        rw [hs] at h
        obtain ⟨k, hk, hw⟩ := ih h
        exact ⟨k + 1, hk.trans (coreRun_of_next hs k).symm, hw.succ hb hs⟩
      | fault f | refused f =>
        rw [hs] at h
        exact ⟨1, by rw [coreRun_one, hs, Option.some.inj h], stepsWithin_one hb⟩

/-- Where every legal opcode costs at least 1 a run ends: each step halts the core or lowers the budget. -/
theorem exists_runsTo {s : State} {budget : Int} (hc : CostsAtLeast 1 s.cfg) : ∃ r, RunsTo budget s r := by
  induction hn : budget.toNat using Nat.strong_induction_on generalizing budget s with
  | _ n ih =>
    by_cases hb : budget ≤ 0 ∨ s.halted = true
    · exact ⟨_, runsTo_ended hb⟩
    · simp only [runsTo_iff_of_running hb]
      obtain ⟨hpos, hs⟩ := not_or.mp hb
      cases hstep : step s with
      | fault f | refused f => exact ⟨_, rfl⟩
      | next t =>
        cases ht : t.halted with
        | true => exact ⟨_, runsTo_ended (.inr ht)⟩
        | false =>
          have hcost : 1 ≤ stepCost s := hc.le_stepCost (Bool.eq_false_of_not_eq_true hs) hstep ht
          exact ih _ (by omega) (hc.of_step hstep) rfl

end Sys2Proof.Machine

namespace Sys2Proof.Proofs
open Sys2Proof.Machine

/-- Settles O58: a loop that has ended, and one that goes on. -/
theorem runIsTheBudgetLoop : Obligations.RunIsTheBudgetLoop := by
  intro budget s r
  split_ifs with hb
  · exact runsTo_iff_of_ended hb
  · exact runsTo_iff_of_running hb

/-- Settles O59: the loop as a number of steps by induction on its iterations, one end, and an end by the budget. -/
theorem runIsRepeatedStep : Obligations.RunIsRepeatedStep := by
  refine fun budget s => ⟨fun r ⟨_, h⟩ => ?_, fun r r' => RunsTo.unique, exists_runsTo⟩
  obtain ⟨k, hk, hw⟩ := runWithin_eq_coreRun h
  exact ⟨k, hk, fun hb => hw.none_of_ended (.inl hb), hw.pos_of_running, hw.le_half⟩

/-- Settles O7: what `decode` answers on the three bytes at PC is what the step fetches. -/
theorem stepRunsTheDecodedInstruction : Obligations.StepRunsTheDecodedInstruction := by
  intro s i rest hs hd
  have hi : fetchDecode s = some i := (decode_eq_instr hd).1
  obtain ⟨hwf, -⟩ := decode_eq_instr_iff.mp hd
  exact ⟨hwf, step_of_fetchDecode hs hi, fun t => stepCost_of_exec hs hi⟩

/-- Settles O9: the loop has ended before its first iteration. -/
theorem haltedCoreDoesNothing : Obligations.HaltedCoreDoesNothing :=
  fun _ _ hs => ⟨step_of_halted hs, stepCost_of_halted hs, runsTo_ended (.inr hs)⟩

end Sys2Proof.Proofs
end

section
/-! PROOF. The address resolver (41_addressing.md): the words that the pointer modes and JMP (a16) read. -/

namespace Sys2Proof.Machine
open Sys2Proof.Stated

/-- A fetched pointer mode has one operand byte, the one after the opcode (41_addressing.md R130, R131). -/
theorem pointerMode_operand {s : State} {i : Instr} {m : Addr} {d : Byte} (hi : fetchDecode s = some i)
    (hm : memOperand i.form = some m) (hmode : m = .izx d ∨ m = .izy d) : d = s.read (s.pc + 1) ∧ i.length = 2 := by
  have hb := memOperand_bytes hi hm
  have hlen : i.length = m.length := (operandBytes_of_memOperand hm).2
  obtain rfl | rfl := hmode <;> exact ⟨(List.cons.inj hb).1, hlen⟩

/-- Where JMP (a16) reads the high byte of its target, in numbers (41_addressing.md R129). -/
theorem jmpIndirect_hiAt_toNat (wrap : Bool) (w : Word) :
    (if wrap ∧ loByte w = 0xFF then wordOf 0x00 (hiByte w) else w + 1).toNat =
      if wrap = true ∧ w.toNat % 256 = 0xFF then 256 * (w.toNat / 256) else (w.toNat + 1) % 65536 := by
  have hlo : loByte w = 0xFF ↔ w.toNat % 256 = 0xFF := by
    rw [← BitVec.toNat_inj, loByte_toNat]
    rfl
  have hwrap : (wordOf 0x00 (hiByte w)).toNat = 256 * (w.toNat / 256) := by
    rw [wordOf_toNat, hiByte_toNat]
    exact Nat.zero_add _
  have hsucc : (w + 1).toNat = (w.toNat + 1) % 65536 := by simp [BitVec.toNat_add]
  rw [apply_ite BitVec.toNat, hwrap, hsucc]
  simp only [hlo]

/-- The target of JMP (a16), low byte first (41_addressing.md R129). -/
theorem jumpTarget_ind_toNat (w : Word) (s : State) :
    (jumpTarget (.ind w) s).toNat = (s.mem.read w.toNat).toNat + 256 * (s.mem.read
      (if s.cfg.jmpIndirectPageWrap = true ∧ w.toNat % 256 = 0xFF then 256 * (w.toNat / 256)
        else (w.toNat + 1) % 65536)).toNat := by
  rw [jumpTarget, wordOf_toNat, read_eq_of_toNat rfl, read_eq_of_toNat (jmpIndirect_hiAt_toNat _ w)]

end Sys2Proof.Machine

namespace Sys2Proof.Proofs
open Sys2Proof.Machine Sys2Proof.Stated

/-- Settles O11: each pointer is the word read at the operand bytes after the opcode, under either wrap parameter. -/
theorem pointersAreReadLittleEndian : Obligations.PointersAreReadLittleEndian := by
  intro s i hi b1 b2 pointer
  refine ⟨fun m d hm hmode => ?_, fun m d hm hmode => ?_, fun w hf => ?_⟩
  · obtain ⟨rfl, hlen⟩ := pointerMode_operand hi hm (.inl hmode)
    refine ⟨?_, hlen⟩
    rw [hmode, effectiveAddress_toNat]
    exact (zpPtr16_toNat _ s).trans (by rw [BitVec.toNat_add]; rfl)
  · obtain ⟨rfl, hlen⟩ := pointerMode_operand hi hm (.inr hmode)
    refine ⟨?_, hlen⟩
    rw [hmode, effectiveAddress_toNat]
    exact congrArg (fun p => (p + s.y.toNat) % 65536) (zpPtr16_toNat _ s)
  · have hb := operandBytes_of_fetchDecode hi
    rw [hf] at hb
    have hw : w.toNat = b1 + 256 * b2 := toNat_of_bytes hb
    have hb1 : b1 < 256 := BitVec.isLt _
    have hlo : (b1 + 256 * b2) % 256 = b1 := by omega
    have hhi : (b1 + 256 * b2) / 256 = b2 := by omega
    refine ⟨?_, by rw [Instr.length, hf]; rfl⟩
    rw [jumpTarget_ind_toNat, hw, hlo, hhi]
    rfl

end Sys2Proof.Proofs
end

section
/-! PROOF. The stack (42_stack.md): what the primitives do at every stack pointer, a pop against the push before it, and
the cells that the pushing instructions write. -/

namespace Sys2Proof.Machine
open Sys2Proof.Stated

theorem one_le_of_ne_zero {sp : Byte} (h : sp ≠ 0) : 1 ≤ sp.toNat :=
  Nat.pos_of_ne_zero fun h0 => h (BitVec.eq_of_toNat_eq h0)

/-! ## A pop after a push (42_stack.md R145) -/

theorem wf_pushed {s : State} (hs : s.mem.wf = true) (v : Byte) : (pushed v s).mem.wf = true := by
  rw [pushed, ← stackCell_toNat]
  exact Memory.wf_write hs (stackCell s.sp) v

theorem read_pushed {s : State} (hs : s.mem.wf = true) (v : Byte) : (pushed v s).mem.read (0x100 + s.sp.toNat) = v :=
  Memory.read_write_same (lo := 0) hs

/-- One cell below where SP stood, a pop gives what the cell at the old SP now holds, and restores SP. -/
theorem pop8_below {s : State} (h : s.sp ≠ 0) {m : Memory} {v : Byte} (hv : m.read (0x100 + s.sp.toNat) = v) :
    pop8 { s with mem := m, sp := s.sp - 1 } = .done v { s with mem := m } := by
  have hpos := one_le_of_ne_zero h
  have hpred := toNat_pred h
  have hlt := s.sp.isLt
  have hcell : 0x101 + (s.sp.toNat - 1) = 0x100 + s.sp.toNat := by omega
  rw [pop8_done (ne_top_of_le (by simp only [hpred]; omega))]
  simp only [hpred, hcell, hv, BitVec.sub_add_cancel]

/-- Two cells below where SP stood, a pop gives the word whose bytes the two cells now hold, and restores SP. -/
theorem pop16_below {s : State} (h : 2 ≤ s.sp.toNat) {m : Memory} {w : Word}
    (hlo : m.read (0xFF + s.sp.toNat) = loByte w) (hhi : m.read (0x100 + s.sp.toNat) = hiByte w) :
    pop16 { s with mem := m, sp := s.sp - 2 } = .done w { s with mem := m } := by
  have hpred := toNat_sub_two h
  have hlt := s.sp.isLt
  have eLo : 0x101 + (s.sp.toNat - 2) = 0xFF + s.sp.toNat := by omega
  have eHi : 0x102 + (s.sp.toNat - 2) = 0x100 + s.sp.toNat := by omega
  rw [pop16_done (by simp only [hpred]; omega)]
  simp only [hpred, eLo, eHi, hlo, hhi, wordOf_lo_hi, BitVec.sub_add_cancel]

/-! ## The cells the pushing instructions write (42_stack.md R141, R143) -/

theorem cellsOnly_pushed {s : State} (h : s.sp ≠ 0) (v : Byte) : CellsOnly 1 s.sp s.mem (pushed v s).mem := by
  intro a ha
  exact Memory.read_write_other (ha 0 Nat.one_pos (one_le_of_ne_zero h))

/-- An implied instruction other than the four that use the stack pushes nothing. -/
theorem pushes_implied {op : ImpliedOp} (h : op ≠ .php ∧ op ≠ .plp ∧ op ≠ .pha ∧ op ≠ .pla) :
    pushes (.implied op) = 0 := by
  obtain ⟨hphp, -, hpha, -⟩ := h
  cases op
  case php => exact absurd rfl hphp
  case pha => exact absurd rfl hpha
  all_goals rfl

/-- A pushing instruction, faulting or not, writes no cell but those it pushes to, unless a handler ran. -/
theorem exec_cellsOnly {i : Instr} {s t : State} (hp : 1 ≤ pushes i.form) (h : exec i s = .next t)
    (hc : t.callouts = s.callouts) : CellsOnly (pushes i.form) s.sp s.mem t.mem := by
  cases exec_cases h with
  | push v hi ht =>
    have hn : pushes i.form = 1 := by obtain ⟨rfl, -⟩ | ⟨rfl, -⟩ := hi <;> rfl
    rw [hn]
    obtain rfl | ⟨h0, rfl⟩ := ht
    · exact fun _ _ => rfl
    · exact cellsOnly_pushed (s := s.advance 1) h0 v
  | brk m sp hi hm ht =>
    subst hi
    obtain rfl | ⟨pc, rfl⟩ := ht <;> exact hm
  | jsr w m sp hi hm ht =>
    subst hi
    obtain rfl | rfl | hr := ht
    · exact hm
    · exact hm
    · exact absurd hr (not_ranHandler hc)
  | implied op hi hop ht => rw [hi, pushes_implied hop] at hp; cases hp
  | plp v hi ht | pla v hi ht | rti sp p hi ht | rts sp hi ht => subst hi; cases hp
  | jmp j hi ht | branch f pol d pc hi ht | read op src hi ht | store op m hi ht | shiftA op hi ht
  | shiftM op m v hi ht | bump op m v hi ht => rw [hi] at hp; cases hp

end Sys2Proof.Machine

namespace Sys2Proof.Proofs
open Sys2Proof.Machine Sys2Proof.Stated

/-- Settles O13: each primitive at the stack pointers at which it completes, and at those at which it raises. -/
theorem stackPrimitives : Obligations.StackPrimitives := by
  intro s v w
  have hsp {n : Byte} (h : s.sp.toNat = n.toNat) : s.sp = n := BitVec.eq_of_toNat_eq h
  refine ⟨fun h => push8_raised (hsp h) v, fun h => push8_done (ne_zero_of_one_le h) v,
    fun h => pop8_raised (hsp h), fun h => pop8_done (ne_top_of_le h),
    fun h => push16_raised_first (hsp h) w, fun h => push16_raised_second (hsp h) w, fun h => push16_done h w,
    fun h => pop16_raised_first (hsp h), fun h => pop16_raised_second (hsp h), pop16_done,
    fun h next opcode a0 => ?_, fun h next opcode a0 => ?_⟩
  · rw [push8_raised (hsp h), andThen_raised]
    rfl
  · rw [pop8_raised (hsp h), andThen_raised]
    rfl

/-- Settles O14: the pop reads the cell the push wrote, and a canonical memory gives back the last byte written. -/
theorem pushThenPopReturnsTheValue : Obligations.PushThenPopReturnsTheValue := by
  intro s v w hs
  refine ⟨fun h => ?_, fun h => push8_raised (BitVec.eq_of_toNat_eq h) v, fun h => ?_⟩
  · have h0 := ne_zero_of_one_le h
    have overwritten (x : Byte) : ((pushed v s).write (stackCell s.sp) x).mem.read (0x100 + s.sp.toNat) = x := by
      rw [← stackCell_toNat]
      exact State.read_write_same (wf_pushed hs v) _ x
    exact ⟨_, _, push8_done h0 v, pop8_below h0 (read_pushed hs v), rfl, fun x => ⟨_, pop8_below h0 (overwritten x)⟩⟩
  · have hlo := Memory.read_write_same (a := 0xFF + s.sp.toNat) (v := loByte w) (lo := 0) (wf_pushed hs (hiByte w))
    have hne : 0x100 + s.sp.toNat ≠ 0xFF + s.sp.toNat := by omega
    have hhi := (Memory.read_write_other (v := loByte w) hne).trans (read_pushed hs (hiByte w))
    exact ⟨_, _, push16_done h w, pop16_below h hlo hhi, rfl⟩

/-- Settles O51: a byte outside the cells that an instruction pushes to reads as before. -/
theorem pushingFormsWriteOnlyTheirCells : Obligations.PushingFormsWriteOnlyTheirCells := by
  intro i s t a h hc hp ha
  exact exec_cellsOnly hp h hc a.toNat ha

end Sys2Proof.Proofs
end

section
/-! PROOF. The implied instructions (43_implied.md): the pushes and pulls that complete, the flag byte that PHP pushes,
and what an instruction that leaves the stack alone costs. -/

namespace Sys2Proof.Machine
open Sys2Proof.Stated

/-! ## Pushes and pulls (43_implied.md R151, R153, R155, R157) -/

theorem exec_pha_done {s : State} (h : s.sp ≠ 0) : exec .pha s = .next (pushed s.a (s.advance 1)) := by
  show (push8 s.a (s.advance 1)).settle _ _ = _
  rw [push8_done (by exact h), settle_done]

theorem exec_php_done {s : State} (h : s.sp ≠ 0) : exec .php s = .next (pushed (s.p.pack ||| 0x30) (s.advance 1)) := by
  show (push8 (s.p.pack ||| 0x30) (s.advance 1)).settle _ _ = _
  rw [push8_done (by exact h), settle_done]

theorem exec_pla_of_pop8 {s t : State} {v : Byte} (h : pop8 (s.advance 1) = .done v t) :
    exec .pla s = .next (t.setA v) := by
  show ((pop8 (s.advance 1)).andThen _).settle _ _ = _
  rw [h, andThen_done, settle_done]

theorem exec_plp_of_pop8 {s t : State} {v : Byte} (h : pop8 (s.advance 1) = .done v t) :
    exec .plp s = .next { t with p := Flags.unpack v } := by
  show ((pop8 (s.advance 1)).andThen _).settle _ _ = _
  rw [h, andThen_done, settle_done]

/-- Bits 4 and 5 of the flag byte are Break and Unused (10_state.md R28). -/
theorem unpack_or_breakUnused (v : Byte) :
    Flags.unpack (v ||| 0x30) = { Flags.unpack v with b := true, u := true } := by
  simp [Flags.unpack, BitVec.getElem_or]

/-! ## Costs (70_reset_and_hazards.md R350, R352) -/

theorem instructionCost_of_implied {i : Instr} {op : ImpliedOp} (h : i.form = .implied op) (s : State) :
    instructionCost i s = s.cfg.baseCost i.opcode := by
  simp only [instructionCost, penalty, h, Nat.add_zero]

/-- Under the spec's cost table an implied instruction other than the four that use the stack costs 2. -/
theorem baseCost_default_of_implied {i : Instr} {op : ImpliedOp} (h : i.form = .implied op)
    (hop : op ≠ .php ∧ op ≠ .plp ∧ op ≠ .pha ∧ op ≠ .pla) : defaultConfig.baseCost i.opcode = 2 := by
  cases i <;> cases h
  case php | plp | pha | pla => simp at hop
  all_goals rfl

end Sys2Proof.Machine

namespace Sys2Proof.Proofs
open Sys2Proof.Machine Sys2Proof.Stated

/-- Settles O22: PLP pops the cell PHP wrote, so it unpacks the flag byte with Break and Unused set. -/
theorem phpThenPlpSetsBreakAndUnused : Obligations.PhpThenPlpSetsBreakAndUnused := by
  intro s hs h
  have h0 := ne_zero_of_one_le h
  have hread := read_pushed (s := s) hs (s.p.pack ||| 0x30)
  have hpop := pop8_below (s := (s.advance 1).advance 1) h0 hread
  refine ⟨_, _, exec_php_done h0, exec_plp_of_pop8 hpop, ?_, rfl⟩
  show Flags.unpack (s.p.pack ||| 0x30) = _
  rw [unpack_or_breakUnused, unpack_pack]

/-- Settles O17: the seven meanings as they are defined, and the cost of an implied instruction off the stack. -/
theorem flagInstructionsWriteOneFlag : Obligations.FlagInstructionsWriteOneFlag := by
  intro s
  refine ⟨rfl, rfl, rfl, rfl, rfl, rfl, rfl, rfl, fun i hi => ?_⟩
  fin_cases hi <;> exact ⟨instructionCost_of_implied rfl s, baseCost_default_of_implied rfl (by decide)⟩

/-- Settles O18: the eleven meanings as they are defined, once `SetZN` is in the statement's numbers. -/
theorem indexTransferAndNopResults : Obligations.IndexTransferAndNopResults := by
  intro s
  simp only [← setZN_eq_zn]
  refine ⟨rfl, rfl, rfl, rfl, rfl, rfl, rfl, rfl, rfl, rfl, rfl, rfl, fun i hi => ?_⟩
  fin_cases hi <;> exact ⟨instructionCost_of_implied rfl s, baseCost_default_of_implied rfl (by decide)⟩

/-- Settles O19: above SP = 0x00 the push completes. -/
theorem pushesStoreOneByte : Obligations.PushesStoreOneByte :=
  fun _ h => ⟨exec_pha_done (ne_zero_of_one_le h), exec_php_done (ne_zero_of_one_le h)⟩

/-- Settles O20: below SP = 0xFF the pop completes. -/
theorem pullsLoadOneByte : Obligations.PullsLoadOneByte := by
  intro s h v
  have hpop := pop8_done (s := s.advance 1) (ne_top_of_le h)
  refine ⟨?_, exec_plp_of_pop8 hpop⟩
  rw [← setZN_eq_zn]
  exact exec_pla_of_pop8 hpop

end Sys2Proof.Proofs
end

section
/-! PROOF. The relative branches (44_branches.md): one rule for the eight, in the numbers of the statements. -/

namespace Sys2Proof.Machine

/-- The sum of R180 taken in the integers and then modulo 65536: with `d = 0`, the address a branch not taken goes to. -/
theorem ofInt_past_add (pc : Word) (d : Int) :
    BitVec.ofInt 16 ((pc.toNat : Int) + 2 + d) = pc + 2 + BitVec.ofInt 16 d := by
  rw [BitVec.ofInt_add, BitVec.ofInt_add, BitVec.ofInt_natCast, BitVec.ofNat_toNat, BitVec.setWidth_eq]
  rfl

/-- The common rule of the eight branches (44_branches.md R180), by the shape of the instruction. -/
theorem exec_branch {i : Instr} {f : BranchFlag} {pol : Bool} {d : Int} (h : i.form = .branch f pol d) (s : State) :
    exec i s = .next { s with
      pc := BitVec.ofInt 16 ((s.pc.toNat : Int) + 2 + if flagOf f s.p == pol then d else 0) } := by
  rw [exec_of_form h, ofInt_past_add]
  show doBranch f pol d s = _
  unfold doBranch branchTaken branchTarget
  split
  · rfl
  · simp

/-- A branch with polarity true is taken when its flag is set. -/
theorem exec_branch_set {i : Instr} {f : BranchFlag} {d : Int} (h : i.form = .branch f true d) (s : State) :
    exec i s = .next { s with
      pc := BitVec.ofInt 16 ((s.pc.toNat : Int) + 2 + if flagOf f s.p then d else 0) } := by
  rw [exec_branch h, beq_true]

/-- A branch with polarity false is taken when its flag is clear. -/
theorem exec_branch_clear {i : Instr} {f : BranchFlag} {d : Int} (h : i.form = .branch f false d) (s : State) :
    exec i s = .next { s with
      pc := BitVec.ofInt 16 ((s.pc.toNat : Int) + 2 + if !flagOf f s.p then d else 0) } := by
  rw [exec_branch h, beq_false]

end Sys2Proof.Machine

namespace Sys2Proof.Proofs
open Sys2Proof.Machine

/-- Settles O23: each branch is the common rule at the flag and polarity of its mnemonic. -/
theorem branchTargets : Obligations.BranchTargets :=
  fun s _ => ⟨exec_branch_clear (f := .negative) rfl s, exec_branch_set (f := .negative) rfl s,
    exec_branch_clear (f := .overflow) rfl s, exec_branch_set (f := .overflow) rfl s,
    exec_branch_clear (f := .carry) rfl s, exec_branch_set (f := .carry) rfl s,
    exec_branch_clear (f := .zero) rfl s, exec_branch_set (f := .zero) rfl s⟩

end Sys2Proof.Proofs
end

section
/-! PROOF. The control instructions (45_control.md): the trap, the call and the two returns, with room on the stack and
without, and each return against the call or the trap before it. -/

namespace Sys2Proof.Machine
open Sys2Proof.Stated

/-! ## The four instructions by their stack operation (45_control.md R190 to R193) -/

theorem exec_brk (s : State) : exec .brk s = (takeBreak (s.advance 1)).settle 0x00 s.pc := rfl

theorem exec_rti (s : State) : exec .rti s = (returnFromBreak (s.advance 1)).settle 0x40 s.pc := rfl

theorem exec_rts (s : State) : exec .rts s = (returnFromSubroutine (s.advance 1)).settle 0x60 s.pc := rfl

/-- JSR with room for its return address ends as a jump does: at its target or in the callout. -/
theorem exec_jsr_of_room {s : State} (h : 2 ≤ s.sp.toNat) (w : Word) :
    exec (.jsr w) s = jumpTo w 0x20 s.pc (afterJsrPush s) := by
  show execJsr w s = _
  rw [execJsr, push16_done (by exact h)]
  rfl

theorem exec_jsr_raised {s t : State} {k : FaultKind} (h : push16 (s.pc + 2) (s.advance 3) = .raised k t) (w : Word) :
    exec (.jsr w) s = .next (t.halt k 0x20 s.pc) := by
  show execJsr w s = _
  rw [execJsr, h]
  rfl

theorem jumpTo_of_isCode {s : State} {t : Word} (h : s.IsCode t) (opcode : Byte) (a0 : Word) :
    jumpTo t opcode a0 s = .next { s with pc := t } := if_neg (Nat.not_le.mpr h)

/-! ## What the call and the trap push (45_control.md R190, R191) -/

/-- Memory with a word pushed at a stack pointer, as `push16` leaves it. -/
abbrev wordPushed (m : Memory) (sp : Byte) (w : Word) : Memory :=
  (m.write (0x100 + sp.toNat) (hiByte w)).write (0xFF + sp.toNat) (loByte w)

/-- Memory with a word and then a byte pushed at a stack pointer, as `takeBreak` leaves it. -/
abbrev trapPushed (m : Memory) (sp : Byte) (w : Word) (v : Byte) : Memory :=
  (wordPushed m sp w).write (0xFE + sp.toNat) v

/-- The two cells of a pushed word hold its bytes. -/
theorem read_wordPushed {m : Memory} (hm : m.wf = true) (sp : Byte) (w : Word) :
    (wordPushed m sp w).read (0xFF + sp.toNat) = loByte w ∧
      (wordPushed m sp w).read (0x100 + sp.toNat) = hiByte w := by
  have hlt := sp.isLt
  have hfirst := Memory.wfFrom_write (v := hiByte w) hm (Nat.zero_le (0x100 + sp.toNat)) (by omega)
  refine ⟨Memory.read_write_same hfirst, ?_⟩
  rw [Memory.read_write_other (by omega), Memory.read_write_same (lo := 0) hm]

/-- The three cells of a trap hold the byte and the word. -/
theorem read_trapPushed {m : Memory} (hm : m.wf = true) (sp : Byte) (w : Word) (v : Byte) :
    (trapPushed m sp w v).read (0xFE + sp.toNat) = v ∧ (trapPushed m sp w v).read (0xFF + sp.toNat) = loByte w ∧
      (trapPushed m sp w v).read (0x100 + sp.toNat) = hiByte w := by
  have hlt := sp.isLt
  have hfirst := Memory.wfFrom_write (v := hiByte w) hm (Nat.zero_le (0x100 + sp.toNat)) (by omega)
  have hword := Memory.wfFrom_write (v := loByte w) hfirst (Nat.zero_le (0xFF + sp.toNat)) (by omega)
  obtain ⟨hlo, hhi⟩ := read_wordPushed hm sp w
  exact ⟨Memory.read_write_same hword, (Memory.read_write_other (by omega)).trans hlo,
    (Memory.read_write_other (by omega)).trans hhi⟩

/-- A byte written below the vector leaves the word the trap goes to. -/
theorem vectorWord_write {m : Memory} {a : Nat} (ha : a < 0xFFFE) (v : Byte) :
    wordOf ((m.write a v).read 0xFFFE) ((m.write a v).read 0xFFFF) = wordOf (m.read 0xFFFE) (m.read 0xFFFF) := by
  rw [Memory.read_write_other (by omega), Memory.read_write_other (by omega)]

theorem read16_brkVector (s : State) : s.read16 Config.brkVector = wordOf (s.mem.read 0xFFFE) (s.mem.read 0xFFFF) := rfl

theorem sub_two_sub_one (sp : Byte) : sp - 2 - 1 = sp - 3 := by
  rw [BitVec.sub_sub]
  rfl

theorem takeBreak_done {s : State} (h : 3 ≤ s.sp.toNat) :
    takeBreak s = .done () { s with
      p := { s.p with b := true }
      sp := s.sp - 3
      mem := trapPushed s.mem s.sp s.pc (Flags.pack { s.p with b := true })
      pc := wordOf (s.mem.read 0xFFFE) (s.mem.read 0xFFFF) } := by
  have hpred := toNat_sub_two (sp := s.sp) (by omega)
  have hroom : s.sp - 2 ≠ 0 := ne_zero_of_one_le (by omega)
  have hcell : 0x100 + (s.sp.toNat - 2) = 0xFE + s.sp.toNat := by omega
  have hlt := s.sp.isLt
  rw [takeBreak, push16_done (by exact Nat.le_of_succ_le h), andThen_done, push8_done (by exact hroom), andThen_done]
  simp only [hpred, hcell, sub_two_sub_one, read16_brkVector]
  rw [vectorWord_write (by omega), vectorWord_write (by omega), vectorWord_write (by omega)]

/-! ## The return from the trap (45_control.md R192) -/

theorem returnFromBreak_done {s : State} (h : s.sp.toNat ≤ 0xFC) :
    returnFromBreak s = .done () { s with
      p := Flags.unpack (s.mem.read (0x101 + s.sp.toNat))
      sp := s.sp + 3
      pc := wordOf (s.mem.read (0x102 + s.sp.toNat)) (s.mem.read (0x103 + s.sp.toNat)) } := by
  have hroom : s.sp ≠ 0xFF := ne_top_of_le (by omega)
  have hsucc := toNat_succ hroom
  have hword : (s.sp + 1).toNat ≤ 0xFD := by omega
  have hlo : 0x101 + (s.sp.toNat + 1) = 0x102 + s.sp.toNat := by omega
  have hhi : 0x102 + (s.sp.toNat + 1) = 0x103 + s.sp.toNat := by omega
  have hsp : s.sp + 1 + 2 = s.sp + 3 := by rw [BitVec.add_assoc]; rfl
  rw [returnFromBreak, pop8_done hroom, andThen_done, pop16_done (by exact hword), andThen_done]
  simp only [hsucc, hlo, hhi, hsp]

theorem returnFromBreak_raised_first {s : State} (h : s.sp = 0xFF) :
    returnFromBreak s = .raised .stackUnderflow s := by
  rw [returnFromBreak, pop8_raised h, andThen_raised]

/-- The flags are loaded when the first pop of PC raises. -/
theorem returnFromBreak_raised_second {s : State} (h : s.sp = 0xFE) :
    returnFromBreak s = .raised .stackUnderflow { s with p := Flags.unpack (s.mem.read 0x1FF), sp := 0xFF } := by
  rw [returnFromBreak, pop8_done (by simp [h]), andThen_done, pop16_raised_first (by simp [h]), andThen_raised]
  simp [h]

/-- The flags are loaded when the second pop of PC raises. -/
theorem returnFromBreak_raised_third {s : State} (h : s.sp = 0xFD) :
    returnFromBreak s = .raised .stackUnderflow { s with p := Flags.unpack (s.mem.read 0x1FE), sp := 0xFF } := by
  rw [returnFromBreak, pop8_done (by simp [h]), andThen_done, pop16_raised_second (by simp [h]), andThen_raised]
  simp [h]

/-! ## The returns below a call and below a trap (45_control.md R194) -/

theorem exec_rts_of_pop16 {s t : State} {w : Word} (h : pop16 (s.advance 1) = .done w t) :
    exec .rts s = .next { t with pc := w + 1 } := by
  rw [exec_rts, returnFromSubroutine, h, andThen_done, settle_done]

theorem exec_rti_of_pops {s t u : State} {v : Byte} {w : Word} (hv : pop8 (s.advance 1) = .done v t)
    (hw : pop16 { t with p := Flags.unpack v } = .done w u) : exec .rti s = .next { u with pc := w } := by
  rw [exec_rti, returnFromBreak, hv, andThen_done, hw, andThen_done, settle_done]

/-- Three cells below where SP stood, a pop gives what the lowest of them now holds, and leaves SP two cells below. -/
theorem pop8_below_word {s : State} (h : 3 ≤ s.sp.toNat) {m : Memory} {v : Byte}
    (hv : m.read (0xFE + s.sp.toNat) = v) :
    pop8 { s with mem := m, sp := s.sp - 3 } = .done v { s with mem := m, sp := s.sp - 2 } := by
  have hpred := toNat_sub_two (sp := s.sp) (by omega)
  have hroom : s.sp - 2 ≠ 0 := ne_zero_of_one_le (by omega)
  have hcell : 0x100 + (s.sp.toNat - 2) = 0xFE + s.sp.toNat := by omega
  rw [← sub_two_sub_one]
  refine pop8_below (s := { s with sp := s.sp - 2 }) hroom ?_
  simp only [hpred, hcell, hv]

/-- Two cells below where SP stood, RTS goes past the word whose bytes they now hold. -/
theorem exec_rts_below {s : State} (h : 2 ≤ s.sp.toNat) {m : Memory} {w : Word} (pc : Word)
    (hlo : m.read (0xFF + s.sp.toNat) = loByte w) (hhi : m.read (0x100 + s.sp.toNat) = hiByte w) :
    exec .rts { s with mem := m, sp := s.sp - 2, pc := pc } = .next { s with mem := m, pc := w + 1 } :=
  exec_rts_of_pop16 (t := { s with mem := m, pc := pc + 1 }) (pop16_below (s := { s with pc := pc + 1 }) h hlo hhi)

/-- Three cells below where SP stood, RTI loads the flags from the lowest and PC from the word above it. -/
theorem exec_rti_below {s : State} (h : 3 ≤ s.sp.toNat) {m : Memory} {v : Byte} {w : Word} (pc : Word)
    (hv : m.read (0xFE + s.sp.toNat) = v) (hlo : m.read (0xFF + s.sp.toNat) = loByte w)
    (hhi : m.read (0x100 + s.sp.toNat) = hiByte w) :
    exec .rti { s with mem := m, sp := s.sp - 3, pc := pc } =
      .next { s with mem := m, p := Flags.unpack v, pc := w } :=
  exec_rti_of_pops (u := { s with mem := m, p := Flags.unpack v, pc := pc + 1 })
    (pop8_below_word (s := { s with pc := pc + 1 }) h hv)
    (pop16_below (s := { s with pc := pc + 1, p := Flags.unpack v }) (Nat.le_of_succ_le h) hlo hhi)

end Sys2Proof.Machine

namespace Sys2Proof.Proofs
open Sys2Proof.Machine Sys2Proof.Stated

/-- Settles O25: the three pushes from the state past the opcode complete, below the vector. -/
theorem brkTakesTheTrap : Obligations.BrkTakesTheTrap := by
  intro s h p
  rw [exec_brk, takeBreak_done (by exact h), settle_done]
  rfl

/-- Settles O27: with room the pushes and the jump, without it the push that raises. -/
theorem jsrCallsOrFaults : Obligations.JsrCallsOrFaults := by
  refine fun s w => ⟨fun h hw => ?_, fun h => ?_, fun h => ?_⟩
  · rw [exec_jsr_of_room h, jumpTo_of_isCode (by exact hw)]
  · exact exec_jsr_raised (push16_raised_first (by exact h) _) w
  · exact exec_jsr_raised (push16_raised_second (by exact h) _) w

/-- Settles O28: three pops that complete, and the first, second or third that raises. -/
theorem rtiReturnsOrFaults : Obligations.RtiReturnsOrFaults := by
  intro s
  simp only [exec_rti]
  refine ⟨fun h => ?_, fun h => ?_, fun h => ?_, fun h => ?_⟩
  · rw [returnFromBreak_done (by exact h), settle_done]
    rfl
  · rw [returnFromBreak_raised_first (by exact h), settle_raised]
    rfl
  · rw [returnFromBreak_raised_second (by exact h), settle_raised]
    rfl
  · rw [returnFromBreak_raised_third (by exact h), settle_raised]
    rfl

/-- Settles O29: two pops that complete, and the first or second that raises; the first leaves SP as it was. -/
theorem rtsReturnsOrFaults : Obligations.RtsReturnsOrFaults := by
  intro s
  simp only [exec_rts]
  refine ⟨fun h => ?_, fun h => ?_, fun h => ?_⟩
  · rw [returnFromSubroutine_done (by exact h), settle_done]
    rfl
  · rw [returnFromSubroutine_raised (by simp [h]), settle_raised, ← h]
    rfl
  · rw [returnFromSubroutine_raised (by simp [h]), settle_raised]
    rfl

/-- Settles O31: each return pops the cells that the call or the trap wrote, and canonical memory gives them back. -/
theorem callsAndBreaksReturn : Obligations.CallsAndBreaksReturn := by
  refine fun s w hs => ⟨fun h hw => ?_, fun h => ?_⟩
  · obtain ⟨hlo, hhi⟩ := read_wordPushed hs s.sp (s.pc + 2)
    have hpc : s.pc + 2 + 1 = s.pc + 3 := by rw [BitVec.add_assoc]; rfl
    exact ⟨_, _, (jsrCallsOrFaults s w).1 h hw, rfl, rfl, exec_rts_below h w hlo hhi, hpc, rfl⟩
  · obtain ⟨hv, hlo, hhi⟩ := read_trapPushed hs s.sp (s.pc + 1) (Flags.pack { s.p with b := true })
    have hrti := exec_rti_below (s := { s with p := { s.p with b := true } }) h (s.read16 Config.brkVector) hv hlo hhi
    exact ⟨_, _, brkTakesTheTrap s h, rfl, rfl, hrti, rfl, rfl, unpack_pack _⟩

end Sys2Proof.Proofs
end

section
/-! PROOF. Group cc=0 (46_group_cc0.md): the compares of both groups in all modes, BIT, and JMP to code. -/

namespace Sys2Proof.Machine
open Sys2Proof.Stated

/-! ## The flags of the compares and of BIT in numbers -/

/-- `Compare` in numbers: the difference is taken in the integers, then modulo 256 (46_group_cc0.md R208). -/
theorem compareFlags_eq_numbers (r m : Byte) (p : Flags) :
    compareFlags r m p =
      { zn p (BitVec.ofInt 8 ((r.toNat : Int) - m.toNat)) with c := decide (m.toNat ≤ r.toNat) } := by
  rw [ofInt_sub_toNat, ← setZN_eq_zn]
  rfl

/-- A reading instruction that runs `Compare` on a register `r` and goes past itself, in the statement's numbers. -/
theorem exec_of_compare {i : Instr} {op : ReadOp} {src : Src} {s : State} {r : Byte} (hi : i.form = .read op src)
    (hop : execRead op src s =
      .next (State.advance { s with p := compareFlags r (operandOf src s) s.p } src.length)) :
    exec i s = .next { s with
      p := { zn s.p (BitVec.ofInt 8 ((r.toNat : Int) - (operandOf src s).toNat)) with
        c := decide ((operandOf src s).toNat ≤ r.toNat) }
      pc := past src.length s } := by
  rw [exec_of_form hi, ← compareFlags_eq_numbers]
  exact hop

theorem getElem_six (v : Byte) : v[6] = decide (64 ≤ v.toNat % 128) := by
  rw [← BitVec.getLsbD_eq_getElem, BitVec.getLsbD, Nat.testBit_eq_decide_div_mod_eq, decide_eq_decide]
  omega

/-- BIT in numbers: bit 7 of the AND is that of both bytes (46_group_cc0.md R201). -/
theorem bitFlags_eq_numbers (a m : Byte) (p : Flags) :
    bitFlags a m p = { p with
      z := decide ((a &&& m).toNat = 0)
      v := decide (64 ≤ m.toNat % 128)
      n := decide (128 ≤ a.toNat) && decide (128 ≤ m.toNat) } := by
  simp only [bitFlags, byte_eq_zero_iff, getElem_six, BitVec.getElem_and, getElem_seven]

/-! ## JMP (46_group_cc0.md R202, R203) -/

/-- JMP in either form, to a target that is code. -/
theorem exec_jmp_of_isCode {i : Instr} {j : Jump} {s : State} (hi : i.form = .jmp j)
    (h : s.IsCode (jumpTarget j s)) : exec i s = .next { s with pc := jumpTarget j s } := by
  rw [exec_of_form hi]
  exact jumpTo_of_isCode (s := s.advance 3) h i.opcode s.pc

end Sys2Proof.Machine

namespace Sys2Proof.Proofs
open Sys2Proof.Machine Sys2Proof.Stated

/-- Settles O36: each of the three runs `Compare` on its register, whatever the mode. -/
theorem comparesSetCarryZeroNegative : Obligations.ComparesSetCarryZeroNegative :=
  fun _ _ _ => ⟨fun hi => exec_of_compare hi rfl, fun hi => exec_of_compare hi rfl, fun hi => exec_of_compare hi rfl⟩

/-- Settles O37: BIT's flags in numbers, in both modes. -/
theorem bitTestsTheOperand : Obligations.BitTestsTheOperand := by
  intro i src s hi m
  rw [exec_of_form hi, ← bitFlags_eq_numbers]
  rfl

/-- Settles O30: neither form does anything but the jump. -/
theorem jmpGoesToItsTarget : Obligations.JmpGoesToItsTarget :=
  fun _ w => ⟨exec_jmp_of_isCode (j := .abs w) rfl, exec_jmp_of_isCode (j := .ind w) rfl⟩

end Sys2Proof.Proofs
end

section
/-! PROOF. Group cc=1 (47_group_cc1.md) with the loads and stores of the other groups: logic, loads, ADC and SBC in
binary and decimal, and stores, each in all modes. -/

namespace Sys2Proof.Machine
open Sys2Proof.Stated

/-! ## ADC (47_group_cc1.md R224) -/

/-- The flags of ADC in numbers, beside the Carry of the mode's own result. -/
theorem adcFlags_eq_numbers (a m : Byte) (p : Flags) :
    adcFlags a m p = { zn p (BitVec.ofNat 8 (a.toNat + m.toNat + p.c.toNat)) with
      c := (adcResult p.d a m p.c).2
      v := decide (a.toInt + m.toInt + (p.c.toNat : Int) < -128 ∨ 127 < a.toInt + m.toInt + (p.c.toNat : Int)) } := by
  rw [← setZN_eq_zn, ← adcOverflow_eq_signed]
  rfl

theorem adcResult_binary {d : Bool} (hd : d = false) (a m : Byte) (c : Bool) :
    adcResult d a m c =
      (BitVec.ofNat 8 (a.toNat + m.toNat + c.toNat), decide (255 < a.toNat + m.toNat + c.toNat)) :=
  if_pos hd

theorem adcResult_decimal {d : Bool} (hd : d = true) {a m : Byte} (ha : bcdValid a = true) (hm : bcdValid m = true)
    (c : Bool) :
    adcResult d a m c =
      (bcdEnc ((bcdVal a + bcdVal m + c.toNat) % 100), decide (99 < bcdVal a + bcdVal m + c.toNat)) := by
  simp [adcResult, hd, ha, hm]

/-- A byte with a digit above 9 rules the decimal branch out. -/
theorem bcdValid_and_of_malformed {a m : Byte} (h : bcdValid a = false ∨ bcdValid m = false) :
    (bcdValid a && bcdValid m) = false := by
  rcases h with ha | hm
  · rw [ha, Bool.false_and]
  · rw [hm, Bool.and_false]

theorem adcResult_malformed {d : Bool} (hd : d = true) {a m : Byte} (h : bcdValid a = false ∨ bcdValid m = false)
    (c : Bool) : adcResult d a m c = Config.bcdAdcInvalid a m c := by
  simp [adcResult, hd, bcdValid_and_of_malformed h]

/-- ADC in every mode and both arithmetics: A and Carry are the result's, Z, N and V those of the binary sum (the spec's
decisions D11 and D12). -/
theorem exec_adc {i : Instr} {src : Src} {s : State} (hi : i.form = .read .adc src) {r : Byte × Bool}
    (hr : adcResult s.p.d s.a (operandOf src s) s.p.c = r) :
    exec i s = .next { s with
      a := r.1
      p := { zn s.p (BitVec.ofNat 8 (s.a.toNat + (operandOf src s).toNat + s.p.c.toNat)) with
        c := r.2
        v := decide (s.a.toInt + (operandOf src s).toInt + (s.p.c.toNat : Int) < -128 ∨
          127 < s.a.toInt + (operandOf src s).toInt + (s.p.c.toNat : Int)) }
      pc := past src.length s } := by
  rw [exec_of_form hi, ← hr, ← adcFlags_eq_numbers]
  rfl

/-! ## SBC (47_group_cc1.md R228) -/

/-- The byte of a binary difference is the subtraction modulo 256. -/
theorem ofInt_sub_borrow (a m : Byte) (c : Bool) :
    BitVec.ofInt 8 ((a.toNat : Int) - m.toNat - borrowOf c) = a - m - (if c then 0 else 1) := by
  rw [Int.sub_eq_add_neg, BitVec.ofInt_add, ofInt_sub_toNat, BitVec.sub_eq_add_neg (a - m)]
  cases c <;> rfl

theorem sbcResult_binary {d : Bool} (hd : d = false) (a m : Byte) (c : Bool) {r : Int}
    (hr : r = (a.toNat : Int) - m.toNat - (1 - (c.toNat : Int))) :
    sbcResult d a m c = (a - m - (if c then 0 else 1), decide (0 ≤ r), decide (r < -128 ∨ 127 < r)) := by
  rw [← borrowOf_eq] at hr
  rw [sbcResult, if_pos hd, ← ofInt_sub_borrow, hr]

/-- A decimal difference is at most 99, so decimal Overflow is its sign alone. -/
theorem sbcResult_decimal {d : Bool} (hd : d = true) {a m : Byte} (ha : bcdValid a = true) (hm : bcdValid m = true)
    (c : Bool) {r : Int} (hr : r = (bcdVal a : Int) - bcdVal m - (1 - (c.toNat : Int))) :
    sbcResult d a m c = (bcdEnc (r % 100).toNat, decide (0 ≤ r), decide (r < 0)) := by
  have hle : ¬ 99 < r := by
    have h1 := bcdVal_le ha
    have h2 := Bool.toNat_le c
    omega
  rw [← borrowOf_eq] at hr
  simp [sbcResult, hd, ha, hm, ← hr, hle]

theorem sbcResult_malformed {d : Bool} (hd : d = true) {a m : Byte} (h : bcdValid a = false ∨ bcdValid m = false)
    (c : Bool) : sbcResult d a m c = Config.bcdSbcInvalid a m c := by
  simp [sbcResult, hd, bcdValid_and_of_malformed h]

/-- SBC in every mode and both arithmetics: A, Carry and Overflow are the result's, Z and N those of the byte stored. -/
theorem exec_sbc {i : Instr} {src : Src} {s : State} (hi : i.form = .read .sbc src) {r : Byte × Bool × Bool}
    (hr : sbcResult s.p.d s.a (operandOf src s) s.p.c = r) :
    exec i s = .next { s with
      a := r.1, p := { zn s.p r.1 with c := r.2.1, v := r.2.2 }, pc := past src.length s } := by
  rw [exec_of_form hi, ← hr, ← setZN_eq_zn]
  rfl

end Sys2Proof.Machine

namespace Sys2Proof.Proofs
open Sys2Proof.Machine Sys2Proof.Stated

/-- Settles O34: each of the three sets A, with Z and N, to its own bitwise result. -/
theorem logicOnTheAccumulator : Obligations.LogicOnTheAccumulator := by
  intro i src s
  simp only [← setZN_eq_zn]
  exact ⟨fun hi => exec_of_form hi s, fun hi => exec_of_form hi s, fun hi => exec_of_form hi s⟩

/-- Settles O35: each of the three sets its register, with Z and N, to the operand. -/
theorem loadsCopyTheOperand : Obligations.LoadsCopyTheOperand := by
  intro i src s
  simp only [← setZN_eq_zn]
  exact ⟨fun hi => exec_of_form hi s, fun hi => exec_of_form hi s, fun hi => exec_of_form hi s⟩

/-- Settles O38: the binary result, and Overflow as signed overflow. -/
theorem adcAddsInBinary : Obligations.AdcAddsInBinary :=
  fun _ _ _ hi hd => exec_adc hi (adcResult_binary hd _ _ _)

/-- Settles O39: the byte encoded from the decimal sum modulo 100 has exactly its digits. -/
theorem adcAddsInDecimal : Obligations.AdcAddsInDecimal := by
  intro i src s hi hd m ha hm sum signed
  obtain ⟨hvalid, hval⟩ := bcdEnc_spec (Nat.mod_lt sum (by decide))
  exact ⟨_, hvalid, hval, exec_adc hi (adcResult_decimal hd ha hm _)⟩

/-- Settles O40: the binary difference as an integer gives Carry and Overflow, modulo 256 the byte. -/
theorem sbcSubtractsInBinary : Obligations.SbcSubtractsInBinary :=
  fun _ _ _ hi hd => exec_sbc hi (sbcResult_binary hd _ _ _ rfl)

/-- Settles O41: the byte encoded from the decimal difference modulo 100 has exactly its digits. -/
theorem sbcSubtractsInDecimal : Obligations.SbcSubtractsInDecimal := by
  intro i src s hi hd m ha hm r
  obtain ⟨hvalid, hval⟩ := bcdEnc_spec (n := (r % 100).toNat) (by omega)
  refine ⟨_, hvalid, ?_, exec_sbc hi (sbcResult_decimal hd ha hm _ rfl)⟩
  rw [hval]
  omega

/-- Settles O42: with a digit above 9 both take their result from the free functions and complete. -/
theorem malformedDecimalOperandsStillRun : Obligations.MalformedDecimalOperandsStillRun :=
  fun _ _ _ hd h =>
    ⟨fun hi => exec_adc hi (adcResult_malformed hd h _), fun hi => exec_sbc hi (sbcResult_malformed hd h _)⟩

/-- Settles O43: a storing form writes its register's byte and moves PC, whatever the mode. -/
theorem storesWriteTheRegister : Obligations.StoresWriteTheRegister :=
  fun _ _ s => ⟨fun hi => exec_of_form hi s, fun hi => exec_of_form hi s, fun hi => exec_of_form hi s⟩

end Sys2Proof.Proofs
end

section
/-! PROOF. Group cc=2 (48_group_cc2.md): the shifts and rotates in numbers, on A and on memory, and DEC and INC, each in
all modes. -/

namespace Sys2Proof.Machine
open Sys2Proof.Stated

/-! ## The shifts and rotates in numbers (48_group_cc2.md R251 to R254) -/

theorem getElem_zero (v : Byte) : v[0] = decide (v.toNat % 2 = 1) := by
  rw [← BitVec.getLsbD_eq_getElem, BitVec.getLsbD, Nat.testBit_zero]

/-- Carry comes into bit 0, which the shift to the left has cleared. -/
theorem rol_toNat (v : Byte) (c : Bool) :
    ((v <<< 1) ||| (if c then 0x01 else 0x00)).toNat = v.toNat * 2 % 256 + c.toNat := by
  have hdisjoint := Nat.two_pow_add_eq_or_of_lt (i := 1) (Bool.toNat_lt c) (v.toNat % 128)
  have hdouble : v.toNat * 2 % 256 = 2 ^ 1 * (v.toNat % 128) := by omega
  rw [hdouble, hdisjoint, ← hdouble, BitVec.toNat_or, BitVec.toNat_shiftLeft, Nat.shiftLeft_eq]
  cases c <;> rfl

/-- Carry comes into bit 7, which the shift to the right has cleared. -/
theorem ror_toNat (v : Byte) (c : Bool) :
    ((v >>> 1) ||| (if c then 0x80 else 0x00)).toNat = v.toNat / 2 + 128 * c.toNat := by
  have hhalf : v.toNat / 2 < 2 ^ 7 := by omega
  have hdisjoint := Nat.two_pow_add_eq_or_of_lt hhalf c.toNat
  rw [Nat.add_comm, hdisjoint, Nat.lor_comm, BitVec.toNat_or, BitVec.toNat_ushiftRight, Nat.shiftRight_eq_div_pow]
  cases c <;> rfl

theorem shiftByte_toNat (op : ShiftOp) (v : Byte) (c : Bool) :
    (shiftByte op v c).toNat = (shiftNumbers op v.toNat c).1 := by
  cases op with
  | asl => exact (BitVec.toNat_shiftLeft ..).trans (by rw [Nat.shiftLeft_eq]; rfl)
  | rol => exact rol_toNat v c
  | lsr => exact (BitVec.toNat_ushiftRight ..).trans (Nat.shiftRight_eq_div_pow ..)
  | ror => exact ror_toNat v c

theorem shiftByte_eq_numbers (op : ShiftOp) (v : Byte) (c : Bool) :
    shiftByte op v c = BitVec.ofNat 8 (shiftNumbers op v.toNat c).1 := by
  rw [← shiftByte_toNat, BitVec.ofNat_toNat, BitVec.setWidth_eq]

theorem shiftCarry_eq_numbers (op : ShiftOp) (v : Byte) (c : Bool) :
    shiftCarry op v = (shiftNumbers op v.toNat c).2 := by
  cases op with
  | asl | rol => exact getElem_seven v
  | lsr | ror => exact getElem_zero v

theorem shiftFlags_eq_numbers (op : ShiftOp) (v : Byte) (p : Flags) :
    shiftFlags op v p = { zn p (BitVec.ofNat 8 (shiftNumbers op v.toNat p.c).1) with
      c := (shiftNumbers op v.toNat p.c).2 } := by
  rw [← shiftByte_eq_numbers, ← shiftCarry_eq_numbers, ← setZN_eq_zn]
  rfl

/-- A shift or rotate at either place: the result is stored there, with the flags of the result and the Carry out. -/
theorem exec_shift {i : Instr} {op : ShiftOp} {pl : Place} (hi : i.form = .shift op pl) {s : State} {r : Nat × Bool}
    (hr : shiftNumbers op (loadPlace pl s).toNat s.p.c = r) :
    exec i s = .next (State.advance { storePlace pl (BitVec.ofNat 8 r.1) s with
      p := { zn s.p (BitVec.ofNat 8 r.1) with c := r.2 } } pl.length) := by
  rw [exec_of_form hi, ← hr, ← shiftFlags_eq_numbers, ← shiftByte_eq_numbers]
  rfl

/-! ## DEC and INC in numbers (48_group_cc2.md R257, R258) -/

/-- Counting down modulo 256 is adding 255. -/
theorem bumped_dec_eq_numbers (v : Byte) : bumped .dec v = BitVec.ofNat 8 (v.toNat + 255) := by
  rw [BitVec.ofNat_add, BitVec.ofNat_toNat, BitVec.setWidth_eq]
  exact BitVec.sub_eq_add_neg ..

theorem bumped_inc_eq_numbers (v : Byte) : bumped .inc v = BitVec.ofNat 8 (v.toNat + 1) := by
  rw [BitVec.ofNat_add, BitVec.ofNat_toNat, BitVec.setWidth_eq]
  rfl

/-- DEC and INC in every mode: the byte at the effective address is rewritten, with Z and N of the new byte. -/
theorem exec_bump {i : Instr} {op : BumpOp} {m : Addr} (hi : i.form = .bump op m) {s : State} {v : Byte}
    (hv : bumped op (s.read (effectiveAddress m s)) = v) :
    exec i s = .next { s with
      mem := s.mem.write (effectiveAddress m s).toNat v, p := zn s.p v, pc := past m.length s } := by
  rw [exec_of_form hi, ← hv, ← setZN_eq_zn]
  rfl

end Sys2Proof.Machine

namespace Sys2Proof.Proofs
open Sys2Proof.Machine Sys2Proof.Stated

/-- Settles O44: the byte, the Carry and the flags of each of the four in numbers, at either place. -/
theorem shiftsReplaceTheirOperand : Obligations.ShiftsReplaceTheirOperand :=
  fun _ _ _ => ⟨fun hi => exec_shift hi rfl, fun _ hi => exec_shift hi rfl⟩

/-- Settles O45: both rewrite the byte at the effective address, by one less or one more modulo 256. -/
theorem decAndIncRewriteMemory : Obligations.DecAndIncRewriteMemory :=
  fun _ _ _ => ⟨fun hi => exec_bump hi (bumped_dec_eq_numbers _), fun hi => exec_bump hi (bumped_inc_eq_numbers _)⟩

end Sys2Proof.Proofs
end

section
/-! PROOF. Exceptions (60_exceptions.md): the stack faults of the pushes, the pulls and BRK, which instructions fault and
which steps are refused, and the host callout. -/

namespace Sys2Proof.Machine
open Sys2Proof.Stated

/-! ## Pushes and pulls without room (60_exceptions.md R303) -/

theorem exec_pha_raised {s : State} (h : s.sp = 0) :
    exec .pha s = .next ((s.advance 1).halt .stackOverflow 0x48 s.pc) := by
  show (push8 s.a (s.advance 1)).settle _ _ = _
  rw [push8_raised (by exact h), settle_raised]
  rfl

theorem exec_php_raised {s : State} (h : s.sp = 0) :
    exec .php s = .next ((s.advance 1).halt .stackOverflow 0x08 s.pc) := by
  show (push8 (s.p.pack ||| 0x30) (s.advance 1)).settle _ _ = _
  rw [push8_raised (by exact h), settle_raised]
  rfl

theorem exec_pla_raised {s : State} (h : s.sp = 0xFF) :
    exec .pla s = .next ((s.advance 1).halt .stackUnderflow 0x68 s.pc) := by
  show ((pop8 (s.advance 1)).andThen _).settle _ _ = _
  rw [pop8_raised (by exact h), andThen_raised, settle_raised]
  rfl

theorem exec_plp_raised {s : State} (h : s.sp = 0xFF) :
    exec .plp s = .next ((s.advance 1).halt .stackUnderflow 0x28 s.pc) := by
  show ((pop8 (s.advance 1)).andThen _).settle _ _ = _
  rw [pop8_raised (by exact h), andThen_raised, settle_raised]
  rfl

/-! ## BRK without room for its three bytes (60_exceptions.md R303) -/

theorem exec_brk_raised {s t : State} {k : FaultKind} (h : takeBreak (s.advance 1) = .raised k t) :
    exec .brk s = .next (t.halt k 0x00 s.pc) := by
  rw [exec_brk, h, settle_raised]

theorem takeBreak_raised_first {s : State} (h : s.sp = 0) :
    takeBreak s = .raised .stackOverflow { s with p := { s.p with b := true } } := by
  rw [takeBreak, push16_raised_first (by exact h), andThen_raised]

/-- The high byte of PC is pushed when the push of its low byte raises. -/
theorem takeBreak_raised_second {s : State} (h : s.sp = 1) :
    takeBreak s = .raised .stackOverflow { s with
      p := { s.p with b := true }, mem := s.mem.write 0x101 (hiByte s.pc), sp := 0 } := by
  rw [takeBreak, push16_raised_second (by exact h), andThen_raised]

/-- PC is pushed when the push of the flag byte raises. -/
theorem takeBreak_raised_third {s : State} (h : s.sp = 2) :
    takeBreak s = .raised .stackOverflow { s with
      p := { s.p with b := true }
      mem := (s.mem.write 0x102 (hiByte s.pc)).write 0x101 (loByte s.pc)
      sp := 0 } := by
  rw [takeBreak, push16_done (by simp [h]), andThen_done, push8_raised (by simp [h]), andThen_raised]
  simp [h]

/-! ## Which instructions fault (60_exceptions.md R300) -/

/-- A step that starts from a running core and halts in a handler's return underflowed there. -/
theorem RanHandler.fault_of_halted {opcode : Byte} {s t : State} (h : RanHandler opcode s t) (hs : s.Running)
    (ht : t.halted = true) : t.fault = some ⟨.stackUnderflow, opcode, s.pc⟩ ∧ t.callouts = s.callouts + 1 := by
  obtain ⟨hc, he | hf⟩ := h
  · cases hs.symm.trans (he.symm.trans ht)
  · exact ⟨hf, hc⟩

/-- The faults that an instruction of a running core raises (60_exceptions.md R300), with its descriptor (R305). -/
def ListedFault (i : Instr) (s t : State) : Prop :=
  (t.fault = some ⟨.stackOverflow, i.opcode, s.pc⟩ ∧ 1 ≤ pushes i.form) ∨
  (t.fault = some ⟨.stackUnderflow, i.opcode, s.pc⟩ ∧
    (i = .plp ∨ i = .pla ∨ i = .rti ∨ i = .rts ∨ (mayCallOut i.form = true ∧ t.callouts = s.callouts + 1)))

theorem listedFault_of_ranHandler {i : Instr} {s t : State} (hi : mayCallOut i.form = true)
    (h : RanHandler i.opcode s t) (hs : s.Running) (ht : t.halted = true) : ListedFault i s t := by
  obtain ⟨hf, hc⟩ := h.fault_of_halted hs ht
  exact .inr ⟨hf, .inr (.inr (.inr (.inr ⟨hi, hc⟩)))⟩

theorem exec_listedFault {i : Instr} {s t : State} (hs : s.Running) (h : exec i s = .next t) (ht : t.halted = true) :
    ListedFault i s t := by
  have running {P : Prop} (e : t.halted = s.halted) : P := by cases hs.symm.trans (e.symm.trans ht)
  cases exec_cases h with
  | push v hi e =>
    have hp : 1 ≤ pushes i.form := by obtain ⟨rfl, -⟩ | ⟨rfl, -⟩ := hi <;> exact le_rfl
    obtain rfl | ⟨-, rfl⟩ := e
    · exact .inl ⟨rfl, hp⟩
    · exact running rfl
  | brk m sp hi hm e =>
    subst hi
    obtain rfl | ⟨pc, rfl⟩ := e
    · exact .inl ⟨rfl, by decide⟩
    · exact running rfl
  | plp v hi e | pla v hi e =>
    obtain rfl | rfl := e
    · exact .inr ⟨rfl, by simp [hi]⟩
    · exact running rfl
  | rti sp p hi e | rts sp hi e =>
    obtain rfl | ⟨pc, rfl⟩ := e
    · exact .inr ⟨rfl, by simp [hi]⟩
    · exact running rfl
  | jsr w m sp hi hm e =>
    subst hi
    obtain rfl | rfl | hr := e
    · exact .inl ⟨rfl, Nat.le_succ 1⟩
    · exact running rfl
    · exact listedFault_of_ranHandler rfl hr hs ht
  | jmp j hi e =>
    obtain ⟨pc, rfl⟩ | hr := e
    · exact running rfl
    · exact listedFault_of_ranHandler (by rw [hi]; rfl) hr hs ht
  | implied op hi hop e =>
    obtain ⟨a, x, y, sp, p, e'⟩ := execImplied_next hop s
    cases e'.symm.trans e
    exact running rfl
  | read op src hi e =>
    obtain ⟨a, x, y, p, e'⟩ := execRead_next op src s
    cases e'.symm.trans e
    exact running rfl
  | branch f pol d pc hi e | store op m hi e | shiftA op hi e | shiftM op m v hi e | bump op m v hi e =>
    subst e
    exact running rfl

/-! ## Which steps are refused (60_exceptions.md R306, R313, R314) -/

theorem settle_ne_refused {opcode : Byte} {a0 : Word} {r : Stacked Unit} {e : Refusal} :
    r.settle opcode a0 ≠ .refused e := by
  obtain ⟨t, ht, -⟩ := settle_pc opcode a0 r
  rw [ht]
  nofun

/-- A shape that does not call out always answers a next state. -/
theorem execForm_next {f : Form} (hf : mayCallOut f = false) (opcode : Byte) (s : State) :
    ∃ t, execForm f opcode s = .next t := by
  have settles (opcode : Byte) (r : Stacked Unit) : ∃ t, r.settle opcode s.pc = .next t :=
    (settle_pc opcode s.pc r).imp fun _ ht => ht.1
  cases f with
  | implied op => exact (execImplied_pc op s).imp fun _ ht => ht.1
  | brk | rti | rts => exact settles _ _
  | read op src =>
    obtain ⟨a, x, y, p, e⟩ := execRead_next op src s
    exact ⟨_, e⟩
  | branch | store | shift | bump => exact ⟨_, rfl⟩
  | jsr | jmp => cases hf

/-- A shape that does not call out runs no handler. -/
theorem Leaves.callouts {s t : State} (h : Leaves false s t) : t.callouts = s.callouts := by
  obtain ⟨u, -, hc | ⟨hj, -⟩, rfl | ⟨k, op, rfl⟩⟩ := h
  · exact hc
  · exact hc
  · cases hj
  · cases hj

theorem jumpTo_refused {t : Word} {opcode : Byte} {a0 : Word} {s : State} {r : Refusal}
    (h : jumpTo t opcode a0 s = .refused r) :
    r = .calloutUnhandled t ∧ s.cfg.calloutBase.val ≤ t.toNat ∧ t ∉ s.cfg.handlers := by
  obtain ⟨-, e⟩ | ⟨-, -, e⟩ | ⟨hbase, hmem, e⟩ := jumpTo_cases t opcode a0 s
  · cases e.symm.trans h
  · exact absurd (e.symm.trans h) settle_ne_refused
  · cases e.symm.trans h
    exact ⟨rfl, hbase, hmem⟩

/-- JSR and JMP are refused where their jump is; the push before it keeps the parameters. -/
theorem execForm_refused {f : Form} (hf : mayCallOut f = true) {opcode : Byte} {s : State} {r : Refusal}
    (h : execForm f opcode s = .refused r) :
    ∃ w, r = .calloutUnhandled w ∧ s.cfg.calloutBase.val ≤ w.toNat ∧ w ∉ s.cfg.handlers := by
  cases f with
  | jmp j => exact ⟨_, jumpTo_refused (s := s.advance 3) h⟩
  | jsr w =>
    simp only [execForm, execJsr] at h
    obtain ⟨m, sp, e, -⟩ | ⟨m, e, -⟩ := push16_cases (s.pc + 2) (s.advance 3) <;> rw [e] at h
    · cases h
    · exact ⟨w, jumpTo_refused (s := { s.advance 3 with mem := m, sp := s.sp - 2 }) h⟩
  | implied | branch | brk | rti | rts | read | store | shift | bump => cases hf

/-! ## The callout (60_exceptions.md R310, R311, R314) -/

/-- A jump into the callout range runs the handler registered at its target or is refused. -/
theorem jumpTo_of_not_isCode {s : State} {t : Word} (h : ¬ s.IsCode t) (opcode : Byte) (a0 : Word) :
    jumpTo t opcode a0 s =
      if t ∈ s.cfg.handlers then calloutWith (Config.handlerEffect s.callouts t s.handlerView) opcode a0 s
      else .refused (.calloutUnhandled t) :=
  if_pos (Nat.not_lt.mp h)

/-- A handler that leaves the two bytes JSR pushed, and SP, has the core return past the JSR. -/
theorem calloutWith_afterJsrPush {e : HandlerEffect} {s : State} (hs : s.mem.wf = true) (h : 2 ≤ s.sp.toNat)
    (hsp : e.sp = s.sp - 2)
    (hw : ∀ c ∈ e.writes, c.1.toNat ≠ 0x100 + s.sp.toNat ∧ c.1.toNat ≠ 0xFF + s.sp.toNat)
    (opcode : Byte) (a0 : Word) :
    calloutWith e opcode a0 (afterJsrPush s) =
      .next { (afterJsrPush s).applyHandler e with sp := s.sp, pc := s.pc + 3 } := by
  have hpred : e.sp.toNat = s.sp.toNat - 2 := by rw [hsp, toNat_sub_two h]
  have eLo : 0x101 + e.sp.toNat = 0xFF + s.sp.toNat := by omega
  have eHi : 0x102 + e.sp.toNat = 0x100 + s.sp.toNat := by omega
  obtain ⟨hlo, hhi⟩ := read_wordPushed hs s.sp (s.pc + 2)
  have hlo' : (Memory.writeAll (afterJsrPush s).mem e.writes).read (0xFF + s.sp.toNat) = loByte (s.pc + 2) :=
    (Memory.read_writeAll_other fun c hc => (hw c hc).2).trans hlo
  have hhi' : (Memory.writeAll (afterJsrPush s).mem e.writes).read (0x100 + s.sp.toNat) = hiByte (s.pc + 2) :=
    (Memory.read_writeAll_other fun c hc => (hw c hc).1).trans hhi
  have hback : e.sp + 2 = s.sp := by rw [hsp, BitVec.sub_add_cancel]
  have hpc : s.pc + 2 + 1 = s.pc + 3 := by rw [BitVec.add_assoc]; rfl
  rw [calloutWith_done (by omega), eLo, eHi, hlo', hhi', wordOf_lo_hi, hback, hpc]

end Sys2Proof.Machine

namespace Sys2Proof.Proofs
open Sys2Proof.Machine Sys2Proof.Stated

/-- Settles O33: the return pops two bytes of what the handler left, or raises; JSR's two bytes are its address. -/
theorem calloutReturnsThroughTheStack : Obligations.CalloutReturnsThroughTheStack :=
  ⟨fun _ op a0 _ => ⟨fun h => calloutWith_done h op a0, fun h => calloutWith_raised h op a0⟩,
    fun _ _ hs h hsp hw => ⟨_, calloutWith_afterJsrPush hs h hsp hw 0x20 _, rfl, rfl⟩⟩

/-- Settles O46, by the cases of `exec`: those that halt a running core are the listed faults. -/
theorem onlyTheListedInstructionsFault : Obligations.OnlyTheListedInstructionsFault :=
  fun _ _ _ => exec_listedFault

/-- Settles O53: a shape that does not call out always completes, and the two that do are refused as their jump is. -/
theorem onlyUnhandledCalloutsAreRefused : Obligations.OnlyUnhandledCalloutsAreRefused := by
  intro i s
  refine ⟨fun hf => ?_, fun r hr => ?_⟩
  · obtain ⟨t, ht⟩ := execForm_next hf i.opcode s
    have h := (exec_eq_execForm i s).trans ht
    have hl := exec_leaves h
    rw [hf] at hl
    exact ⟨t, h, hl.callouts⟩
  · rw [exec_eq_execForm] at hr
    cases hf : mayCallOut i.form with
    | false =>
      obtain ⟨t, ht⟩ := execForm_next hf i.opcode s
      cases ht.symm.trans hr
    | true =>
      obtain ⟨w, hw, hbase, hmem⟩ := execForm_refused hf hr
      exact ⟨w, hw, hbase, hmem, rfl⟩

/-- Settles O21: a push at the bottom and a pop at the top of the stack raise before they change anything. -/
theorem pushAndPullFaults : Obligations.PushAndPullFaults :=
  fun _ => ⟨fun h => ⟨exec_pha_raised h, exec_php_raised h⟩, fun h => ⟨exec_pla_raised h, exec_plp_raised h⟩⟩

/-- Settles O26: the push of PC raises at its first or second byte, or completes and leaves no room for the flags. -/
theorem brkFaultsPartWay : Obligations.BrkFaultsPartWay :=
  fun _ => ⟨fun h => exec_brk_raised (takeBreak_raised_first h),
    fun h => exec_brk_raised (takeBreak_raised_second h),
    fun h => exec_brk_raised (takeBreak_raised_third h)⟩

/-- Settles O32: each of the three ends in a jump, JSR after its push, and the jump is to the callout range. -/
theorem jumpsIntoTheCalloutRangeRunTheHandler : Obligations.JumpsIntoTheCalloutRangeRunTheHandler := by
  refine fun s w => ⟨fun h hw => ?_, fun hw => ?_, fun ht => ?_⟩
  · rw [exec_jsr_of_room h]
    exact jumpTo_of_not_isCode (s := afterJsrPush s) hw 0x20 s.pc
  · exact jumpTo_of_not_isCode (s := s.advance 3) hw 0x4C s.pc
  · exact jumpTo_of_not_isCode (s := s.advance 3) ht 0x6C s.pc

end Sys2Proof.Proofs
end

section
/-! PROOF. Reset and hazards (70_reset_and_hazards.md): the values of reset, the base costs against the table by kind and
mode, and the penalty of a branch. -/

namespace Sys2Proof.Machine
open Sys2Proof.Stated

/-! ## The spec's base costs (70_reset_and_hazards.md R352) -/

/-- The entry of every instruction's opcode is what its kind and mode give, 2 to 7; by the 151 instructions. -/
theorem costEntry_opcode (i : Instr) :
    defaultConfig.costEntry i.opcode = costByKind i.form ∧ 2 ≤ costByKind i.form ∧ costByKind i.form ≤ 7 := by
  cases i <;> simp only [Instr.opcode] <;> exact ⟨rfl, Nat.le_of_ble_eq_true rfl, Nat.le_of_ble_eq_true rfl⟩

/-- The 105 zeros; by the 256 opcodes. -/
theorem costEntry_illegal {op b1 b2 : Byte} (h : decodeOpcode op b1 b2 = none) : defaultConfig.costEntry op = 0 := by
  have table : ∀ op : Byte, illegal op.toNat = true → defaultConfig.costEntry op = 0 := by decide
  exact table op ((decodeOpcode_eq_none_iff op b1 b2).mp h)

theorem baseCost_default_opcode (i : Instr) : defaultConfig.baseCost i.opcode = costByKind i.form := by
  obtain ⟨j, hj, -⟩ := Option.map_eq_some_iff.mp (length_decodeOpcode_opcode i 0 0)
  rw [baseCost_legal _ hj, (costEntry_opcode i).1]

theorem baseCost_default_of_decode {op b1 b2 : Byte} {i : Instr} (h : decodeOpcode op b1 b2 = some i) :
    defaultConfig.baseCost op = costByKind i.form := by
  obtain ⟨-, rfl, -⟩ := decodeOpcode_eq_some_iff.mp h
  exact baseCost_default_opcode i

/-- Every legal opcode costs at least 2 (40_step_and_run.md R111). -/
theorem costsAtLeast_two_default : CostsAtLeast 2 defaultConfig := by
  intro op h
  obtain ⟨i, hi⟩ := Option.isSome_iff_exists.mp h
  rw [baseCost_default_of_decode hi]
  exact (costEntry_opcode i).2.1

/-! ## The penalty of a branch (70_reset_and_hazards.md R351) -/

theorem branchTarget_toNat (d : Int) (s : State) :
    ((branchTarget d s).toNat : Int) = (((s.pc.toNat + 2) % 65536 : Nat) + d) % 65536 := by
  rw [branchTarget, ← ofInt_past_add, BitVec.toNat_ofInt]
  omega

/-- The target is in another page than the next instruction when the two addresses divided by 256 differ. -/
theorem hiByte_branchTarget_eq_iff (d : Int) (s : State) :
    hiByte (branchTarget d s) = hiByte (s.pc + 2) ↔
      ((((s.pc.toNat + 2) % 65536 : Nat) : Int) + d) % 65536 / 256 = ((s.pc.toNat + 2) % 65536 : Nat) / 256 := by
  have hpcn : (s.pc + 2).toNat = (s.pc.toNat + 2) % 65536 := BitVec.toNat_add ..
  rw [← BitVec.toNat_inj, hiByte_toNat, hiByte_toNat, hpcn, ← branchTarget_toNat]
  omega

theorem instructionCost_of_branch {i : Instr} {f : BranchFlag} {pol : Bool} {d : Int} (h : i.form = .branch f pol d)
    (s : State) : instructionCost i s = s.cfg.baseCost i.opcode + branchPenalty f pol d s := by
  rw [instructionCost, penalty, h]

theorem penalty_of_not_branch {i : Instr} (h : ∀ f pol d, i.form ≠ .branch f pol d) (s : State) : penalty i s = 0 := by
  unfold penalty
  split
  · next hf => exact absurd hf (h _ _ _)
  · rfl

theorem branchPenalty_not_taken {f : BranchFlag} {pol : Bool} {s : State} (h : flagOf f s.p ≠ pol) (d : Int) :
    branchPenalty f pol d s = 0 :=
  if_neg (by simp [branchTaken, h])

theorem branchPenalty_taken {f : BranchFlag} {pol : Bool} {s : State} (h : flagOf f s.p = pol) (d : Int) :
    branchPenalty f pol d s = 1 + (if hiByte (branchTarget d s) ≠ hiByte (s.pc + 2) then 1 else 0) :=
  if_pos (by simp [branchTaken, h])

end Sys2Proof.Machine

namespace Sys2Proof.Proofs
open Sys2Proof.Machine Sys2Proof.Stated

/-- Settles O24: the penalty of a branch by whether it is taken and whether it leaves the page; no other form has one. -/
theorem branchPenalties : Obligations.BranchPenalties := by
  refine fun i s => ⟨fun f pol d hi => ?_, fun hi => ?_⟩
  · simp only [instructionCost_of_branch hi, ne_eq, ← hiByte_branchTarget_eq_iff]
    refine ⟨by rw [baseCost_default_opcode, hi]; rfl, fun hf => ?_, fun hf hp => ?_, fun hf hp => ?_⟩
    · rw [branchPenalty_not_taken hf, Nat.add_zero]
    · rw [branchPenalty_taken hf, if_neg (not_not_intro hp)]
    · rw [branchPenalty_taken hf, if_pos hp]
  · rw [instructionCost, penalty_of_not_branch hi, Nat.add_zero]

/-- Settles O60: base costs by whether the opcode decodes, the table at reset by opcode and by instruction. -/
theorem baseCyclesMatchTheKindTable : Obligations.BaseCyclesMatchTheKindTable := by
  refine ⟨rfl, costsAtLeast_two_default, fun op b1 b2 => ⟨fun h => ?_, fun i h => ?_⟩⟩
  · exact ⟨costEntry_illegal h, fun c => baseCost_illegal c h⟩
  · obtain ⟨-, hmin, hmax⟩ := costEntry_opcode i
    have hcost := baseCost_default_of_decode h
    exact ⟨hcost, hmin.trans_eq hcost.symm, hcost.trans_le hmax, fun c => baseCost_legal c h⟩

/-- Settles O57: each field as `hostReset` writes or keeps it; an empty memory reads 0x00 everywhere. -/
theorem resetLeavesTheListedValues : Obligations.ResetLeavesTheListedValues := by
  intro s t
  have hpack : t.p.pack = 0x04 := BitVec.eq_of_toNat_eq (pack_toNat t.p)
  exact ⟨rfl, rfl, rfl, rfl, hpack, ⟨rfl, rfl, rfl, rfl, rfl, rfl, rfl, rfl⟩, fun _ => rfl, rfl, rfl, rfl, rfl, rfl,
    rfl, rfl⟩

end Sys2Proof.Proofs
end
